-- ==== Sys2Proof/Word.lean ====
section
/-!
DEFINITION. The bit vectors of the core: bytes, the 2-bit encoder sample and the 4-bit history code
(spec 30_encoding.md R60). Bit 0 is the least significant bit of every value (R4).
-/

namespace Sys2Proof

/-- One byte: the cells `ATT`, `SW`, `SNAP_SW`, `SNAP_ATT`, `CAND` and the payload bytes (R46). -/
abbrev Byte := BitVec 8

/-- `SAMPLE`: the levels of the two encoder lines taken together (R62). -/
abbrev Sample := BitVec 2

/-- `QHIST`: previous sample in bits 3:2, current sample in bits 1:0 (R63). -/
abbrev Code := BitVec 4

end Sys2Proof
end

