-- ==== Sys2Proof/Config.lean ====
section
/-!
DEFINITION. What is fixed for the machine (spec 00_scope.md R3): the whole table of parameters as one
record, the open values as constants with no body, and the environment's moves.
-/

namespace Sys2Proof

/-- The two delta tables that satisfy the source's constraints (R95): `T` and `-T`.
PRESUMED (log 12): the default `T` is the spec's own choice, decision D1. -/
inductive QTable where
  | plusT
  | minusT
deriving DecidableEq, Repr, Inhabited

/-- Which encoder line is bit 1 of the sample (R62, decision D2; log 13). -/
inductive SampleOrder where
  | aHigh
  | bHigh
deriving DecidableEq, Repr, Inhabited

/-- What one exclusive group of switches shows: no member, or exactly one of its three (R13, R134). The
members stand in the order of R12, the first in the group's highest bit. -/
inductive GroupPick where
  | off
  | first
  | second
  | third
deriving DecidableEq, Repr

/-- What the four switch scanners read at one scan (R133, R134). At most one member of each group is
active by construction, so the words the environment can choose are exactly those of R134 (log 9). -/
structure Selection where
  /-- Input group, bits 7 to 5. -/
  input : GroupPick
  /-- Output group, bits 4 to 2. -/
  output : GroupPick
  /-- Mono mode, bit 1. -/
  mono : Bool
  /-- Dim mode, bit 0. -/
  dim : Bool
deriving DecidableEq, Repr

/-- One move of the environment (R189): what may happen next, with the inputs that go with it. -/
inductive EnvEvent where
  /-- `TICK`: the timer expires (R80, R83). -/
  | tick
  /-- One system-clock cycle passes for the timer's counter (R82, reference behaviour; log 5). -/
  | clock
  /-- `QEDGE`: the lines stand at these levels and the edge handler is invoked (R90 to R92). -/
  | qedge (encA encB : Bool)
  /-- ScanLoop performs its next phase action; if it calls the scanners they read `scan`, and if it calls
  the bus transmitter that returns `busStatus` (R134, R161). -/
  | loop (scan : Selection) (busStatus : Nat)
deriving DecidableEq, Repr, Inhabited

/-- The whole table of parameters of R3, one field per identifier. The record is fixed for a machine; it
travels with the state (log 1), so a statement about every state holds for every choice of them. -/
structure Config where
  /-- `ATT_MIN`, lowest level: maximum volume. -/
  attMin : Byte
  /-- `ATT_MAX`, highest level: minimum volume. -/
  attMax : Byte
  /-- `ATT_RESET` (R31). -/
  attReset : Byte
  /-- `SW_RESET` (R31). -/
  swReset : Byte
  /-- `DIM_OFFSET` (R28). -/
  dimOffset : Nat
  /-- `ACC_STEP`, the magnitude at which the accumulator makes one step. -/
  accStep : Nat
  /-- `DIV_N`, serviced ticks per evaluation. -/
  divN : Nat
  /-- `BUS_LEN`, bytes in the bus payload (R66). -/
  busLen : Nat
  /-- `QTAB` (R95). -/
  qtab : QTable
  /-- `SAMPLE_ORDER` (R62). -/
  sampleOrder : SampleOrder
  /-- `HIST_RESET` (decision D3). -/
  histReset : Code
  /-- `ACC_RESET` (decision D4). -/
  accReset : Int
  /-- `SNAP_SW_RESET`, OPEN (decision D5). -/
  snapSwReset : Byte
  /-- `SNAP_ATT_RESET`, OPEN (decision D5). -/
  snapAttReset : Byte
  /-- `DIV_RESET` (decision D6). -/
  divReset : Nat
  /-- `TICK_PERIOD` in system-clock cycles, OPEN (decision D7). -/
  tickPeriod : Nat
  /-- `BUS_ADDR`, OPEN (decision D8). -/
  busAddr : Nat
  /-- `BUS_FLAG`, OPEN (decision D9). -/
  busFlag : Nat
deriving DecidableEq, Repr

namespace Config

/-- The peripheral address the source does not give (R41, decision D8; log 23). -/
opaque openBusAddr : Nat
/-- The fourth argument of `transmit`, not given (R161, decision D9; log 23). -/
opaque openBusFlag : Nat
/-- The timer period less one, so that the period is any positive number (R82, decision D7; log 23). -/
opaque openTickPeriodPred : Nat
/-- Free value: the environment's move number `n`, when none is placed in the script (log 2). -/
opaque environment : Nat → EnvEvent

/-- The values of the table of R3: the source's literals (log 22), the decisions' values (log 12 to 15)
and the OPEN ones (log 23). -/
def standard : Config where
  attMin := 0
  attMax := 127
  attReset := 127
  swReset := 0b10010000
  dimOffset := 32
  accStep := 4
  divN := 16
  busLen := 2
  qtab := .plusT
  sampleOrder := .aHigh
  histReset := 0b0000
  accReset := 0
  snapSwReset := 0b10010000
  snapAttReset := 127
  divReset := 0
  tickPeriod := openTickPeriodPred + 1
  busAddr := openBusAddr
  busFlag := openBusFlag

end Config

end Sys2Proof
end

