-- ==== Sys2Proof/Syntax.lean ====
section
/-!
DEFINITION. The operations of the core: one constructor per row of spec/opcode_table.json
(30_encoding.md R73). Bit fields an operation carries stay bit vectors; the phase actions and the
table codes carry none.
-/

namespace Sys2Proof

/-- The 27 operations (R73). -/
inductive Instr where
  /-- `QD.0000` (R96): prev 00, cur 00; no-op. -/
  | qd0000
  /-- `QD.0001` (R97): prev 00, cur 01; valid, reverse ring of `T`. -/
  | qd0001
  /-- `QD.0010` (R98): prev 00, cur 10; valid, forward ring of `T`. -/
  | qd0010
  /-- `QD.0011` (R99): prev 00, cur 11; invalid. -/
  | qd0011
  /-- `QD.0100` (R100): prev 01, cur 00; valid, forward ring of `T`. -/
  | qd0100
  /-- `QD.0101` (R101): prev 01, cur 01; no-op. -/
  | qd0101
  /-- `QD.0110` (R102): prev 01, cur 10; invalid. -/
  | qd0110
  /-- `QD.0111` (R103): prev 01, cur 11; valid, reverse ring of `T`. -/
  | qd0111
  /-- `QD.1000` (R104): prev 10, cur 00; valid, reverse ring of `T`. -/
  | qd1000
  /-- `QD.1001` (R105): prev 10, cur 01; invalid. -/
  | qd1001
  /-- `QD.1010` (R106): prev 10, cur 10; no-op. -/
  | qd1010
  /-- `QD.1011` (R107): prev 10, cur 11; valid, forward ring of `T`. -/
  | qd1011
  /-- `QD.1100` (R108): prev 11, cur 00; invalid. -/
  | qd1100
  /-- `QD.1101` (R109): prev 11, cur 01; valid, forward ring of `T`. -/
  | qd1101
  /-- `QD.1110` (R110): prev 11, cur 10; valid, reverse ring of `T`. -/
  | qd1110
  /-- `QD.1111` (R111): prev 11, cur 11; no-op. -/
  | qd1111
  /-- `QSTEP.UP` (R112): forward detent; `code` is the `QHIST` wildcard `ppcc` of the lookup. -/
  | qstepUp (code : Code)
  /-- `QSTEP.DOWN` (R113): reverse detent; `code` as for `qstepUp`. -/
  | qstepDown (code : Code)
  /-- `TICK` (R80): the timer expires. -/
  | tick
  /-- `SL.WAIT` (R130): poll and clear the scan-due flag. -/
  | slWait
  /-- `SL.SCAN` (R133): call the collaborators. -/
  | slScan
  /-- `SL.DIV` (R135): the rate divider. -/
  | slDiv
  /-- `SL.EVAL` (R137): change detection and dim transform. -/
  | slEval
  /-- `SL.BUS` (R162): issue the bus transaction. -/
  | slBus
  /-- `SL.SHIFT` (R164): issue the shift-register update. -/
  | slShift
  /-- `BUS` (R161): one bus transaction with payload bytes `b0`, `b1`. -/
  | bus (b0 b1 : Byte)
  /-- `SHIFT` (R164): one shift-out of byte `b`. -/
  | shift (b : Byte)
deriving DecidableEq, Repr

end Sys2Proof
end

