-- ==== Sys2Proof/WellFormed.lean ====
section
/-!
DEFINITION. Which operations are well formed. The core has one bound on an operand: byte 0 of a bus
packet has bit 7 equal to 0 (spec 30_encoding.md R66, R67, R71 (c)). Every history code, every switch
word and every shift byte is legal (R71 (a), (b)).
-/

namespace Sys2Proof

/-- The form check of an operation. -/
def WellFormed : Instr → Bool
  | .qd0000 => true
  | .qd0001 => true
  | .qd0010 => true
  | .qd0011 => true
  | .qd0100 => true
  | .qd0101 => true
  | .qd0110 => true
  | .qd0111 => true
  | .qd1000 => true
  | .qd1001 => true
  | .qd1010 => true
  | .qd1011 => true
  | .qd1100 => true
  | .qd1101 => true
  | .qd1110 => true
  | .qd1111 => true
  | .qstepUp _ => true
  | .qstepDown _ => true
  | .tick => true
  | .slWait => true
  | .slScan => true
  | .slDiv => true
  | .slEval => true
  | .slBus => true
  | .slShift => true
  | .bus b0 _ => !b0.getLsbD 7
  | .shift _ => true

end Sys2Proof
end

