-- ==== Sys2Proof/Decode.lean ====
section
/-!
DEFINITION. Decoder and encoder of the operation formats (spec 30_encoding.md R60 to R70). The formats
overlap as bare numbers, so a word is decoded IN its format: the format is given by where the word comes
from (the edge handler, the timer, the sequencer, an output call), never by its bits.
-/

namespace Sys2Proof

/-- Where an operation word comes from. `qhist` is the table lookup itself; `qhistUp` and `qhistDown` are
the two step outcomes, which share the `QHIST` format and are told apart by the accumulator and not by a
bit (R73). -/
inductive OpFormat where
  | qhist
  | qhistUp
  | qhistDown
  | strobe
  | phase
  | busPkt
  | shiftByte
deriving DecidableEq, Repr

/-- Why a word is no operation of its format. -/
inductive DecodeError where
  /-- The word has not as many bytes as its format (R60: lengths are fixed). -/
  | wrongLength
  /-- A bit above a `QHIST` code's four, a `PHASE` code's three or a `STROBE`'s one is set. -/
  | codeTooWide
  /-- A `STROBE` of 0: no expiry happened (R70). -/
  | noStrobe
  /-- `PHASE` codes 110 and 111 (R69, R71 (d)). -/
  | unusedPhase
  /-- A bus packet whose byte 0 has bit 7 set (R67, R71 (c)). -/
  | busByteRange
deriving DecidableEq, Repr

/-- The 16 `QD` rows of the operation table (R96 to R111). -/
def qdRows : List (Code × Instr) :=
  [(0b0000, .qd0000), (0b0001, .qd0001), (0b0010, .qd0010), (0b0011, .qd0011),
   (0b0100, .qd0100), (0b0101, .qd0101), (0b0110, .qd0110), (0b0111, .qd0111)] ++
  [(0b1000, .qd1000), (0b1001, .qd1001), (0b1010, .qd1010), (0b1011, .qd1011),
   (0b1100, .qd1100), (0b1101, .qd1101), (0b1110, .qd1110), (0b1111, .qd1111)]

/-- The six rows of the `PHASE` format (R69). -/
def phaseRows : List (BitVec 3 × Instr) :=
  [(0b000, .slWait), (0b001, .slScan), (0b010, .slDiv), (0b011, .slEval), (0b100, .slBus),
   (0b101, .slShift)]

/-- The low `n` bits of a byte, refused if a higher bit is set. -/
def narrow (n : Nat) (b : Byte) : Except DecodeError (BitVec n) :=
  if b.toNat < 2 ^ n then .ok (b.setWidth n) else .error .codeTooWide

/-- A `QHIST` code read as the table lookup it is (R63, R73). -/
def decodeQhist (b : Byte) : Except DecodeError Instr :=
  match narrow 4 b with
  | .error e => .error e
  | .ok c => match qdRows.lookup c with
    | some i => .ok i
    | none => .error .codeTooWide

/-- A `QHIST` wildcard read as an operand (R73). -/
def decodeWildcard (mk : Code → Instr) (b : Byte) : Except DecodeError Instr :=
  match narrow 4 b with
  | .error e => .error e
  | .ok c => .ok (mk c)

/-- A `PHASE` code (R69). -/
def decodePhase (b : Byte) : Except DecodeError Instr :=
  match narrow 3 b with
  | .error e => .error e
  | .ok p => match phaseRows.lookup p with
    | some i => .ok i
    | none => .error .unusedPhase

/-- A `STROBE` bit (R70). -/
def decodeStrobe (b : Byte) : Except DecodeError Instr :=
  match narrow 1 b with
  | .error e => .error e
  | .ok t => if t = 1 then .ok .tick else .error .noStrobe

/-- A bus payload, byte 0 first and its bit 7 equal to 0 (R60, R66, R67). -/
def decodeBus (b0 b1 : Byte) : Except DecodeError Instr :=
  if b0.getLsbD 7 then .error .busByteRange else .ok (.bus b0 b1)

/-- The decoder: total on any bytes in any format. -/
def decode (f : OpFormat) (bytes : List Byte) : Except DecodeError Instr :=
  match f, bytes with
  | .qhist, [b] => decodeQhist b
  | .qhistUp, [b] => decodeWildcard .qstepUp b
  | .qhistDown, [b] => decodeWildcard .qstepDown b
  | .strobe, [b] => decodeStrobe b
  | .phase, [b] => decodePhase b
  | .busPkt, [b0, b1] => decodeBus b0 b1
  | .shiftByte, [b] => .ok (.shift b)
  | _, _ => .error .wrongLength

/-- The encoder: the format of an operation and its word, from the encoding column of the operation
table (R73). -/
def encode : Instr → OpFormat × List Byte
  | .qd0000 => (.qhist, [0b0000])
  | .qd0001 => (.qhist, [0b0001])
  | .qd0010 => (.qhist, [0b0010])
  | .qd0011 => (.qhist, [0b0011])
  | .qd0100 => (.qhist, [0b0100])
  | .qd0101 => (.qhist, [0b0101])
  | .qd0110 => (.qhist, [0b0110])
  | .qd0111 => (.qhist, [0b0111])
  | .qd1000 => (.qhist, [0b1000])
  | .qd1001 => (.qhist, [0b1001])
  | .qd1010 => (.qhist, [0b1010])
  | .qd1011 => (.qhist, [0b1011])
  | .qd1100 => (.qhist, [0b1100])
  | .qd1101 => (.qhist, [0b1101])
  | .qd1110 => (.qhist, [0b1110])
  | .qd1111 => (.qhist, [0b1111])
  | .qstepUp c => (.qhistUp, [c.setWidth 8])
  | .qstepDown c => (.qhistDown, [c.setWidth 8])
  | .tick => (.strobe, [0b1])
  | .slWait => (.phase, [0b000])
  | .slScan => (.phase, [0b001])
  | .slDiv => (.phase, [0b010])
  | .slEval => (.phase, [0b011])
  | .slBus => (.phase, [0b100])
  | .slShift => (.phase, [0b101])
  | .bus b0 b1 => (.busPkt, [b0, b1])
  | .shift b => (.shiftByte, [b])

/-- The format and the bytes of a word numbered as the operation table numbers it. DESIGN CHOICE (log 10):
the table's formats overlap, so the width picks the format: 1, 3 and 4 bits are `STROBE`, `PHASE` and
`QHIST`; 16 bits are `BUSPKT`, byte 0 in bits 15:8 (log 11); of 8 bits, the values below 16 are `QHIST`
codes and the others `SHIFTBYTE`. -/
def tableWord (nbits w : Nat) : OpFormat × List Byte :=
  match nbits with
  | 1 => (.strobe, [BitVec.ofNat 8 w])
  | 3 => (.phase, [BitVec.ofNat 8 w])
  | 4 => (.qhist, [BitVec.ofNat 8 w])
  | 8 => if w < 16 then (.qhist, [BitVec.ofNat 8 w]) else (.shiftByte, [BitVec.ofNat 8 w])
  | 16 => (.busPkt, [BitVec.ofNat 8 (w / 256), BitVec.ofNat 8 w])
  | _ => (.busPkt, [])

/-- The instruction the decoder reads from a word of the operation table; none where it refuses. -/
def decodeTableWord (nbits w : Nat) : Option Instr :=
  if w < 2 ^ nbits then
    match decode (tableWord nbits w).1 (tableWord nbits w).2 with
    | .ok i => some i
    | .error _ => none
  else none

end Sys2Proof
end

