-- ==== Sys2Proof/Machine/State.lean ====
section
/-!
DEFINITION. The state of the core (spec 10_state.md R10, R29, R30) as plain data, the reasons a step can
stop, and the state after reset (R31, R200 to R202).
-/

namespace Sys2Proof.Machine

open Sys2Proof

/-- `PHASE`: ScanLoop's position in its iteration (R26). -/
inductive Phase where
  | wait
  | scan
  | div
  | eval
  | bus
  | shift
deriving DecidableEq, Repr

/-- The bits of `SW` that one switch scanner owns (R12). -/
inductive Slot where
  | input
  | output
  | mono
  | dim
deriving DecidableEq, Repr

/-- A collaborator call that leaves no output record (R184 to R186); see log 24. -/
inductive Call where
  | debounceInit
  | debounceTick
  | scan (slot : Slot)
deriving DecidableEq, Repr

/-- One output transaction (R160): the arguments of `transmit` (R161) or of `shiftOut` (R164). -/
inductive Record where
  | bus (addr : Nat) (b0 b1 : Byte) (len flag : Nat)
  | shift (b : Byte)
deriving DecidableEq, Repr

/-- One entry of the script: a move of the environment, or one operation word presented by itself in a
format (DESIGN CHOICE, log 3: the core never does the latter). -/
inductive Entry where
  | env (e : EnvEvent)
  | word (f : OpFormat) (bytes : List Byte)
deriving DecidableEq, Repr

/-- The whole state. The registers are those of R10, each with the rule that describes it. -/
structure State where
  /-- The parameters of R3, fixed for the machine (log 1). -/
  cfg : Config
  /-- `ATT`, the attenuation level (R11). -/
  att : Byte
  /-- `SW`, the switch word (R12 to R14). -/
  sw : Byte
  /-- `HIST`, previous and current sample (R15). -/
  hist : Code
  /-- `ACC`, the signed step accumulator (R16, R17; log 8). -/
  acc : Int
  /-- `SCAN_DUE` (R18). -/
  scanDue : Bool
  /-- `TMR`, as clock cycles elapsed since the last reload (R19, R82; log 5). -/
  tmr : Nat
  /-- `DIV`, the serviced-tick counter, below `DIV_N` (R20, R135): 4 bits at the value 16 (log 31). -/
  div : Nat
  /-- `SNAP_SW` (R21). -/
  snapSw : Byte
  /-- `SNAP_ATT`, the raw level last reported (R22). -/
  snapAtt : Byte
  /-- `BUS_DUE` (R23). -/
  busDue : Bool
  /-- `SHIFT_DUE` (R24). -/
  shiftDue : Bool
  /-- `CAND`, the candidate transmit value (R25). -/
  cand : Byte
  /-- `PHASE` (R26). -/
  phase : Phase
  /-- Present level of the input line `ENC_A` (R29). -/
  encA : Bool
  /-- Present level of the input line `ENC_B` (R29). -/
  encB : Bool
  /-- What the switch scanners read when they are called (R134; log 9). -/
  pins : Selection
  /-- The status the bus transmitter returns when it is called; read by no rule (R161; log 28). -/
  status : Nat
  /-- `OUT`, the output trace, oldest first (R30). -/
  out : List Record
  /-- The collaborator calls that leave no output record, oldest first (log 24). -/
  calls : List Call
  /-- The environment's moves to come; the model's own field (log 2). -/
  script : List Entry
  /-- How many free moves of the environment have been read; the model's own field (log 2). -/
  drawn : Nat
deriving DecidableEq, Repr

/-- The core raises no exception and records no cause (R175), so nothing raises a fault: the type has no
constructor. -/
inductive Fault where
deriving DecidableEq, Repr

/-- Why the model has no next state. -/
inductive Refusal where
  /-- Raised by exec for an instruction with no meaning yet. Safe: the machine stops. -/
  | notModelled (mnemonic : String)
  /-- Raised by step for a presented word that is no encoding of its format (R69, R71, U12; log 25).
  Safe: the machine stops, and no event of the environment presents such a word. -/
  | undecodable (reason : DecodeError)
deriving DecidableEq, Repr

/-- The state after boot under any parameters (R31, R201, R202): registers at their reset values and
`debounce.init()` called once (log 27). `CAND`, `TMR` and the inputs have no value in the spec
(log 5, 6, 7). -/
def State.resetWith (c : Config) : State where
  cfg := c
  att := c.attReset
  sw := c.swReset
  hist := c.histReset
  acc := c.accReset
  scanDue := false
  tmr := 0
  div := c.divReset
  snapSw := c.snapSwReset
  snapAtt := c.snapAttReset
  busDue := false
  shiftDue := false
  cand := 0
  phase := .wait
  encA := false
  encB := false
  pins := ⟨.off, .off, false, false⟩
  status := 0
  out := []
  calls := [.debounceInit]
  script := []
  drawn := 0

/-- The state after boot with the default parameters (R3, R31). -/
def State.reset : State := State.resetWith Config.standard

end Sys2Proof.Machine
end

