-- ==== Sys2Proof/Machine/Operands.lean ====
section
/-!
DEFINITION. What the operations compute from values: sample and history (R62 to R64), the delta table
(R94, R95), thresholds and clamps (R112, R113), the dim transform and the candidate (R141), the divider
(R135), the slots of the switch word (R12, R13), the phase codes and successors (R69, R132).
-/

namespace Sys2Proof.Machine

open Sys2Proof

/-! ### Sample, history, table -/

/-- The 2-bit sample of two line levels: `ENC_A` in bit 1 in the spec's order (R62). -/
def sampleOf (o : SampleOrder) (a b : Bool) : Sample :=
  match o with
  | .aHigh => BitVec.ofBool a ++ BitVec.ofBool b
  | .bHigh => BitVec.ofBool b ++ BitVec.ofBool a

/-- The line levels `(ENC_A, ENC_B)` that give a sample. -/
def linesOf (o : SampleOrder) (x : Sample) : Bool × Bool :=
  match o with
  | .aHigh => (x.getLsbD 1, x.getLsbD 0)
  | .bHigh => (x.getLsbD 0, x.getLsbD 1)

/-- `sample()`: the present levels of both lines (R92). -/
def sample (s : State) : Sample := sampleOf s.cfg.sampleOrder s.encA s.encB

/-- Previous sample of a history code (R63). -/
def prevOf (c : Code) : Sample := c.extractLsb' 2 2

/-- Current sample of a history code (R63). -/
def curOf (c : Code) : Sample := c.extractLsb' 0 2

/-- History assembly: shift left by 2, mask to 4 bits, insert the new sample (R64). -/
def assemble (h : Code) (x : Sample) : Code := ((h <<< 2) &&& 0b1111#4) ||| x.setWidth 4

/-- The default table `T` (R95). PRESUMED (log 12): its signs are decision D1. -/
def tableT : List Int := [0, -1, 1, 0, 1, 0, 0, -1, -1, 0, 0, 1, 0, 1, -1, 0]

/-- `QTAB[c]` (R48, R65): the entry is a mathematical integer. -/
def delta (t : QTable) (c : Code) : Int :=
  match t with
  | .plusT => tableT.getD c.toNat 0
  | .minusT => -tableT.getD c.toNat 0

/-- A no-op code: previous and current sample are equal (R94). -/
def isNoop (c : Code) : Bool := prevOf c == curOf c

/-- An invalid code: the samples differ in both bits (R94). -/
def isInvalid (c : Code) : Bool := (prevOf c ^^^ curOf c) == 0b11#2

/-- The ring `00 -> 10 -> 11 -> 01 -> 00`, forward under `T` (R94, R95). -/
def ringT : List Code := [0b0010, 0b1011, 0b1101, 0b0100]

/-- The opposite ring `00 -> 01 -> 11 -> 10 -> 00`, reverse under `T` (R94, R95). -/
def ringR : List Code := [0b0001, 0b0111, 0b1110, 0b1000]

/-! ### Hysteresis and clamped level -/

/-- One step louder: `ATT - 1` unless the level is already `ATT_MIN` (R112). DESIGN CHOICE (log 26): a
level outside the range is stepped as an 8-bit value. -/
def louder (c : Config) (a : Byte) : Byte := if a ≠ c.attMin then a - 1 else a

/-- One step quieter: `ATT + 1` unless the level is already `ATT_MAX` (R113). DESIGN CHOICE (log 26): a
level outside the range is stepped as an 8-bit value. -/
def quieter (c : Config) (a : Byte) : Byte := if a ≠ c.attMax then a + 1 else a

/-- "exceeds +3", that is `ACC_STEP - 1` (R3, R112). -/
abbrev overUp (c : Config) (acc : Int) : Prop := acc > (c.accStep : Int) - 1

/-- "falls below -3" (R3, R113). -/
abbrev underDown (c : Config) (acc : Int) : Prop := acc < -((c.accStep : Int) - 1)

/-- Step 5 of R90 on the running accumulator and level. -/
def stepFive (c : Config) (x : Int × Byte) : Int × Byte :=
  if overUp c x.1 then (0, louder c x.2) else x

/-- Step 6 of R90 on the running accumulator and level. -/
def stepSix (c : Config) (x : Int × Byte) : Int × Byte :=
  if underDown c x.1 then (0, quieter c x.2) else x

/-- The two tests in the order 5 then 6 (R114). DESIGN CHOICE (log 30): between steps `ACC` lies within -3
to 3 (R17, R115); for an accumulator outside it decision D21 lets a model refuse or apply the rules as they
stand, and the model applies them, so that `ACC = 10` steps and is reset even by a zero delta. -/
def hysteresis (c : Config) (acc : Int) (att : Byte) : Int × Byte := stepSix c (stepFive c (acc, att))

/-! ### Switch word -/

/-- The bits of a slot (R12). -/
def slotMask : Slot → Byte
  | .input => 0b11100000
  | .output => 0b00011100
  | .mono => 0b00000010
  | .dim => 0b00000001

/-- The word with one slot's bits taken from `new` (R134). -/
def writeSlot (slot : Slot) (new old : Byte) : Byte :=
  (old &&& ~~~slotMask slot) ||| (new &&& slotMask slot)

/-- Dim mode enabled: bit 0 (R12, R61). -/
def dimOn (w : Byte) : Bool := w.getLsbD 0

/-- At most one bit of a group is set (R13). -/
def atMostOne (g : BitVec 3) : Bool :=
  (g.getLsbD 0).toNat + (g.getLsbD 1).toNat + (g.getLsbD 2).toNat ≤ 1

/-- The group invariant of `SW` (R13): a property of what the environment writes, never tested by the
core. The words that satisfy it are 64, not the 128 that R71 counts (log 21). -/
def legalSw (w : Byte) : Bool := atMostOne (w.extractLsb' 5 3) && atMostOne (w.extractLsb' 2 3)

/-- The three bits of a group: its first member in the highest (R12). -/
def groupBits : GroupPick → BitVec 3
  | .off => 0b000
  | .first => 0b100
  | .second => 0b010
  | .third => 0b001

/-- The switch word that one scan leaves (R12, R134). -/
def scanWord (x : Selection) : Byte :=
  groupBits x.input ++ groupBits x.output ++ BitVec.ofBool x.mono ++ BitVec.ofBool x.dim

/-! ### Divider, dim transform, candidate -/

/-- `(DIV + 1) mod DIV_N` (R135). -/
def divNext (n d : Nat) : Nat := (d + 1) % n

/-- `min(a + DIM_OFFSET, ATT_MAX)`, the sum taken without wrap (R141). -/
def dimmed (c : Config) (a : Byte) : Byte := BitVec.ofNat 8 (min (a.toNat + c.dimOffset) c.attMax.toNat)

/-- The candidate transmit value of an evaluation that reads the switch word `w` and the level `a`, with
the snapshot's level `snap` (R141, R142). -/
def candidate (c : Config) (w a snap : Byte) : Byte :=
  if a ≠ snap then (if dimOn w then dimmed c a else a) else snap

/-! ### Phases -/

/-- The `PHASE` codes (R69). -/
def phaseCode : Phase → BitVec 3
  | .wait => 0b000
  | .scan => 0b001
  | .div => 0b010
  | .eval => 0b011
  | .bus => 0b100
  | .shift => 0b101

/-- The phase of a code, none for the unused ones (R69). -/
def phaseOf (c : BitVec 3) : Option Phase :=
  [(0b000#3, Phase.wait), (0b001, .scan), (0b010, .div), (0b011, .eval), (0b100, .bus),
   (0b101, .shift)].lookup c

/-- Successor of `WAIT` (R130). -/
def afterWait (due : Bool) : Phase := if due then .scan else .wait

/-- Successor of `DIV`, from the new counter value (R135). -/
def afterDiv (d : Nat) : Phase := if d = 0 then .eval else .wait

/-- Successor of `EVAL` (R144). -/
def afterEval (busDue shiftDue : Bool) : Phase :=
  if busDue then .bus else if shiftDue then .shift else .wait

/-- Successor of `BUS` (R162). -/
def afterBus (shiftDue : Bool) : Phase := if shiftDue then .shift else .wait

end Sys2Proof.Machine
end

