-- ==== Sys2Proof/Machine/Flags.lean ====
section
/-!
DEFINITION. The three flags of the core: `SCAN_DUE` (spec R18, R49), `BUS_DUE` (R23) and `SHIFT_DUE`
(R24), with the updates that set and clear them.
-/

namespace Sys2Proof.Machine

open Sys2Proof

/-- `SCAN_DUE <- 1`, whatever its previous value: ticks are not queued (R80, R81). -/
def raiseScanDue (s : State) : State := { s with scanDue := true }

/-- Observe `SCAN_DUE` and clear it, as one indivisible access (R49). -/
def takeScanDue (s : State) : Bool × State := (s.scanDue, { s with scanDue := false })

/-- Step 4 of an evaluation: a switch word that differs from the snapshot marks both updates and
overwrites the snapshot at once (R138). -/
def markSwitch (s : State) : State :=
  if s.sw ≠ s.snapSw then { s with shiftDue := true, busDue := true, snapSw := s.sw } else s

/-- Step 5's marking: a level that differs from the snapshot marks the bus update and overwrites the
snapshot with the raw level (R140). -/
def markLevel (s : State) : State :=
  if s.att ≠ s.snapAtt then { s with busDue := true, snapAtt := s.att } else s

/-- `BUS_DUE <- 0`, whatever the transmit outcome (R162, R163). -/
def clearBusDue (s : State) : State := { s with busDue := false }

/-- `SHIFT_DUE <- 0` (R164). -/
def clearShiftDue (s : State) : State := { s with shiftDue := false }

end Sys2Proof.Machine
end

