-- ==== Sys2Proof/Machine/Ops.lean ====
section
/-!
DEFINITION. The shared operations over the state: entering and leaving a handler (spec R182, R183), the
edge handler (R90), output records (R160), collaborator calls (R184), the sequencer and the timer.
-/

namespace Sys2Proof.Machine

open Sys2Proof

/-- Entry of an interrupt handler: nothing of the core's state is saved or altered and `PHASE` is
untouched (R182). This is the core's only form of taking an exception: it raises none (R175). -/
def enterHandler (s : State) : State := s

/-- Return from a handler: nothing to restore, no re-enable action (R183). -/
def leaveHandler (s : State) : State := s

/-- `TMR` reloaded for the next period (R80, R82; log 5). -/
def reloadTimer (s : State) : State := { s with tmr := 0 }

/-- One system-clock cycle counted by the timer (R82; log 5). -/
def countCycle (s : State) : State := { s with tmr := s.tmr + 1 }

/-- `HIST <- (HIST[1:0], x)` (R93). -/
def shiftHist (x : Sample) (s : State) : State := { s with hist := assemble s.hist x }

/-- The accumulator after the delta of `c` is added, before the threshold tests (R90 step 4, R17). -/
def accPlus (c : Code) (s : State) : Int := s.acc + delta s.cfg.qtab c

/-- Both results of the threshold tests written at once. -/
def setAccAtt (x : Int × Byte) (s : State) : State := { s with acc := x.1, att := x.2 }

/-- One whole invocation of the edge handler that looks up code `c` (R90, R95): the sample is the code's
current sample, the delta the table's entry. -/
def quadrature (c : Code) (s : State) : State :=
  let h := enterHandler s
  leaveHandler (setAccAtt (hysteresis h.cfg (accPlus c h) h.att) (shiftHist (curOf c) h))

/-- The outcome `QSTEP.UP` of a lookup of `c`: its writes if its condition holds (R112; log 19). -/
def detentUp (c : Code) (s : State) : State :=
  if overUp s.cfg (accPlus c s) then setAccAtt (0, louder s.cfg s.att) s else s

/-- The outcome `QSTEP.DOWN` of a lookup of `c` (R113; log 19). -/
def detentDown (c : Code) (s : State) : State :=
  if underDown s.cfg (accPlus c s) then setAccAtt (0, quieter s.cfg s.att) s else s

/-- `phase <- p` (R6). -/
def setPhase (p : Phase) (s : State) : State := { s with phase := p }

/-- One collaborator call that leaves no output record (R184; log 24). -/
def callOut (c : Call) (s : State) : State := { s with calls := s.calls ++ [c] }

/-- `scan()` of one scanner: it rewrites the bits of its own slot (R133, R134, R185). -/
def scanSlot (slot : Slot) (s : State) : State :=
  callOut (.scan slot) { s with sw := writeSlot slot (scanWord s.pins) s.sw }

/-- Append one record to the output trace (R160). -/
def emit (r : Record) (s : State) : State := { s with out := s.out ++ [r] }

/-- `transmit(BUS_ADDR, b0 b1, BUS_LEN, BUS_FLAG)`; the status is returned and ignored (R161, R176). -/
def emitBus (b0 b1 : Byte) (s : State) : State :=
  emit (.bus s.cfg.busAddr b0 b1 s.cfg.busLen s.cfg.busFlag) s

/-- `shiftOut(b)` (R164, R187). -/
def emitShift (b : Byte) (s : State) : State := emit (.shift b) s

/-- `DIV <- (DIV + 1) mod DIV_N` (R135). -/
def countDiv (s : State) : State := { s with div := divNext s.cfg.divN s.div }

/-- `CAND <- cand` (R141). -/
def loadCand (b : Byte) (s : State) : State := { s with cand := b }

/-- The dispatch after an evaluation (R144). -/
def dispatchDue (s : State) : State := setPhase (afterEval s.busDue s.shiftDue) s

end Sys2Proof.Machine
end

