-- ==== Sys2Proof/Machine/Output.lean ====
section
/-!
DEFINITION. The meanings of ScanLoop's output phases and of the two output records (spec
43_output_transaction.md). The output steps always complete (R168; log 17).
-/

namespace Sys2Proof.Machine

open Sys2Proof

/-- `SL.BUS` (R162): one bus transaction, then `BUS_DUE <- 0` whatever its outcome. -/
def execSlBus (s : State) : Host.Outcome State Fault Refusal :=
  .next (setPhase (afterBus s.shiftDue) (clearBusDue (emitBus s.cand s.sw s)))

/-- `SL.SHIFT` (R164): one shift-out of `SW`, then `SHIFT_DUE <- 0`. -/
def execSlShift (s : State) : Host.Outcome State Fault Refusal :=
  .next (setPhase .wait (clearShiftDue (emitShift s.sw s)))

/-- `BUS` (R161): the transaction alone (log 20). -/
def execBus (b0 b1 : Byte) (s : State) : Host.Outcome State Fault Refusal := .next (emitBus b0 b1 s)

/-- `SHIFT` (R164): the shift-out alone (log 20). -/
def execShift (b : Byte) (s : State) : Host.Outcome State Fault Refusal := .next (emitShift b s)

end Sys2Proof.Machine
end

