-- ==== Sys2Proof/Machine/Quadrature.lean ====
section
/-!
DEFINITION. The meanings of the decoder's operations: the 16 table codes (spec R96 to R111), each one
whole invocation of the handler of R90, and the two step outcomes (R112, R113).
-/

namespace Sys2Proof.Machine

open Sys2Proof

/-- `QD.0000` (R96). -/
def execQd0000 (s : State) : Host.Outcome State Fault Refusal := .next (quadrature 0b0000 s)

/-- `QD.0001` (R97). -/
def execQd0001 (s : State) : Host.Outcome State Fault Refusal := .next (quadrature 0b0001 s)

/-- `QD.0010` (R98). -/
def execQd0010 (s : State) : Host.Outcome State Fault Refusal := .next (quadrature 0b0010 s)

/-- `QD.0011` (R99). -/
def execQd0011 (s : State) : Host.Outcome State Fault Refusal := .next (quadrature 0b0011 s)

/-- `QD.0100` (R100). -/
def execQd0100 (s : State) : Host.Outcome State Fault Refusal := .next (quadrature 0b0100 s)

/-- `QD.0101` (R101). -/
def execQd0101 (s : State) : Host.Outcome State Fault Refusal := .next (quadrature 0b0101 s)

/-- `QD.0110` (R102). -/
def execQd0110 (s : State) : Host.Outcome State Fault Refusal := .next (quadrature 0b0110 s)

/-- `QD.0111` (R103). -/
def execQd0111 (s : State) : Host.Outcome State Fault Refusal := .next (quadrature 0b0111 s)

/-- `QD.1000` (R104). -/
def execQd1000 (s : State) : Host.Outcome State Fault Refusal := .next (quadrature 0b1000 s)

/-- `QD.1001` (R105). -/
def execQd1001 (s : State) : Host.Outcome State Fault Refusal := .next (quadrature 0b1001 s)

/-- `QD.1010` (R106). -/
def execQd1010 (s : State) : Host.Outcome State Fault Refusal := .next (quadrature 0b1010 s)

/-- `QD.1011` (R107). -/
def execQd1011 (s : State) : Host.Outcome State Fault Refusal := .next (quadrature 0b1011 s)

/-- `QD.1100` (R108). -/
def execQd1100 (s : State) : Host.Outcome State Fault Refusal := .next (quadrature 0b1100 s)

/-- `QD.1101` (R109). -/
def execQd1101 (s : State) : Host.Outcome State Fault Refusal := .next (quadrature 0b1101 s)

/-- `QD.1110` (R110). -/
def execQd1110 (s : State) : Host.Outcome State Fault Refusal := .next (quadrature 0b1110 s)

/-- `QD.1111` (R111). -/
def execQd1111 (s : State) : Host.Outcome State Fault Refusal := .next (quadrature 0b1111 s)

/-- `QSTEP.UP` (R112): `ACC <- 0` and one step louder, when the lookup of `c` takes the accumulator above
+3. -/
def execQstepUp (c : Code) (s : State) : Host.Outcome State Fault Refusal := .next (detentUp c s)

/-- `QSTEP.DOWN` (R113): `ACC <- 0` and one step quieter, when the lookup of `c` takes the accumulator
below -3. -/
def execQstepDown (c : Code) (s : State) : Host.Outcome State Fault Refusal := .next (detentDown c s)

end Sys2Proof.Machine
end

