-- ==== Sys2Proof/Machine/ScanLoop.lean ====
section
/-!
DEFINITION. The meanings of ScanLoop's first four phase actions (spec 42_scan_loop.md).
-/

namespace Sys2Proof.Machine

open Sys2Proof

/-- `SL.WAIT` (R130): test and clear the flag, go on to `SCAN` if it was set. -/
def execSlWait (s : State) : Host.Outcome State Fault Refusal :=
  .next (setPhase (afterWait (takeScanDue s).1) (takeScanDue s).2)

/-- The five collaborator calls in their fixed order (R133, U17). -/
def scanAll (s : State) : State :=
  scanSlot .dim (scanSlot .mono (scanSlot .output (scanSlot .input (callOut .debounceTick s))))

/-- `SL.SCAN` (R133, R134). -/
def execSlScan (s : State) : Host.Outcome State Fault Refusal :=
  .next (setPhase .div (scanAll s))

/-- `SL.DIV` (R135): the increment comes before the test. -/
def execSlDiv (s : State) : Host.Outcome State Fault Refusal :=
  .next (setPhase (afterDiv (countDiv s).div) (countDiv s))

/-- `SL.EVAL` (R137): both comparisons and the candidate use one reading of `SW` and of `ATT` (R139;
log 16). -/
def execSlEval (s : State) : Host.Outcome State Fault Refusal :=
  .next (dispatchDue (loadCand (candidate s.cfg s.sw s.att s.snapAtt) (markLevel (markSwitch s))))

end Sys2Proof.Machine
end

