-- ==== Sys2Proof/Machine/Tick.lean ====
section
/-!
DEFINITION. The meaning of the timer expiry (spec 40_tick_source.md R80, R81).
-/

namespace Sys2Proof.Machine

open Sys2Proof

/-- `TICK` (R80): `SCAN_DUE <- 1`, the timer is reloaded, nothing else (R84). -/
def execTick (s : State) : Host.Outcome State Fault Refusal :=
  .next (leaveHandler (raiseScanDue (reloadTimer (enterHandler s))))

end Sys2Proof.Machine
end

