-- ==== Sys2Proof/Machine/Dispatch.lean ====
section
/-!
DEFINITION. The dispatch of an operation to its meaning.
-/

namespace Sys2Proof.Machine

open Sys2Proof

/-- One direct call of a meaning per operation. -/
def exec (i : Instr) (s : State) : Host.Outcome State Fault Refusal :=
  match i with
  | .qd0000 => Sys2Proof.Machine.execQd0000 s
  | .qd0001 => Sys2Proof.Machine.execQd0001 s
  | .qd0010 => Sys2Proof.Machine.execQd0010 s
  | .qd0011 => Sys2Proof.Machine.execQd0011 s
  | .qd0100 => Sys2Proof.Machine.execQd0100 s
  | .qd0101 => Sys2Proof.Machine.execQd0101 s
  | .qd0110 => Sys2Proof.Machine.execQd0110 s
  | .qd0111 => Sys2Proof.Machine.execQd0111 s
  | .qd1000 => Sys2Proof.Machine.execQd1000 s
  | .qd1001 => Sys2Proof.Machine.execQd1001 s
  | .qd1010 => Sys2Proof.Machine.execQd1010 s
  | .qd1011 => Sys2Proof.Machine.execQd1011 s
  | .qd1100 => Sys2Proof.Machine.execQd1100 s
  | .qd1101 => Sys2Proof.Machine.execQd1101 s
  | .qd1110 => Sys2Proof.Machine.execQd1110 s
  | .qd1111 => Sys2Proof.Machine.execQd1111 s
  | .qstepUp c => Sys2Proof.Machine.execQstepUp c s
  | .qstepDown c => Sys2Proof.Machine.execQstepDown c s
  | .tick => Sys2Proof.Machine.execTick s
  | .slWait => Sys2Proof.Machine.execSlWait s
  | .slScan => Sys2Proof.Machine.execSlScan s
  | .slDiv => Sys2Proof.Machine.execSlDiv s
  | .slEval => Sys2Proof.Machine.execSlEval s
  | .slBus => Sys2Proof.Machine.execSlBus s
  | .slShift => Sys2Proof.Machine.execSlShift s
  | .bus b0 b1 => Sys2Proof.Machine.execBus b0 b1 s
  | .shift b => Sys2Proof.Machine.execShift b s

end Sys2Proof.Machine
end

