-- ==== Sys2Proof/Machine/Fetch.lean ====
section
/-!
DEFINITION. How the next operation is selected. The core fetches no instructions: a move of the
environment drives the inputs and selects one agent, whose operation word is then formed from the state
(spec R64 for the history code, R26 for the phase code, R70 for the strobe).
-/

namespace Sys2Proof.Machine

open Sys2Proof

/-- The next entry: the head of the script, or a free move of the environment when the script is empty
(log 2). -/
def takeEntry (s : State) : Entry × State :=
  match s.script with
  | e :: rest => (e, { s with script := rest })
  | [] => (.env (Config.environment s.drawn), { s with drawn := s.drawn + 1 })

/-- The inputs that go with a move (R29, R134, R161). -/
def present (e : EnvEvent) (s : State) : State :=
  match e with
  | .tick => s
  | .clock => countCycle s
  | .qedge a b => { s with encA := a, encB := b }
  | .loop x st => { s with pins := x, status := st }

/-- The operation word that a presented move selects: the strobe at an expiry, the assembled history code
at an edge, the phase code for ScanLoop; a clock cycle that does not end the period selects nothing. -/
def selected (e : EnvEvent) (s : State) : Option (OpFormat × List Byte) :=
  match e with
  | .tick => some (.strobe, [1])
  | .clock => if s.cfg.tickPeriod ≤ s.tmr then some (.strobe, [1]) else none
  | .qedge _ _ => some (.qhist, [(assemble s.hist (sample s)).setWidth 8])
  | .loop _ _ => some (.phase, [(phaseCode s.phase).setWidth 8])

/-- Take the next entry and form its operation word. -/
def fetch (s : State) : Option (OpFormat × List Byte) × State :=
  match takeEntry s with
  | (.env e, t) => (selected e (present e t), present e t)
  | (.word f bytes, t) => (some (f, bytes), t)

/-- Put an entry at the head of the script. -/
def schedule (e : Entry) (s : State) : State := { s with script := e :: s.script }

/-- The history whose current sample becomes the previous sample of `c` at the next edge. -/
def aimHist (c : Code) (s : State) : State := { s with hist := assemble s.hist (prevOf c) }

/-- Everything the next step needs to run the operation of a word (log 10): for a history code, the
previous sample in `HIST` and an edge with the current one; for a phase code, that phase and a move of
ScanLoop; for a strobe, an expiry; any other word is presented by itself. -/
def placeWord (f : OpFormat) (bytes : List Byte) (s : State) : State :=
  match decode f bytes with
  | .error _ => schedule (.word f bytes) s
  | .ok _ =>
    match f, bytes with
    | .qhist, [b] =>
      let c : Code := b.setWidth 4
      let lines := linesOf s.cfg.sampleOrder (curOf c)
      schedule (.env (.qedge lines.1 lines.2)) (aimHist c s)
    | .strobe, _ => schedule (.env .tick) s
    | .phase, [b] =>
      match phaseOf (b.setWidth 3) with
      | some p => schedule (.env (.loop s.pins s.status)) (setPhase p s)
      | none => schedule (.word f bytes) s
    | _, _ => schedule (.word f bytes) s

end Sys2Proof.Machine
end

