-- ==== Sys2Proof/Machine/Step.lean ====
section
/-!
DEFINITION. One step of the core (spec R7): one `TICK`, one whole handler invocation or one phase action
(or one clock cycle that does not end the timer's period), chosen by the environment.
-/

namespace Sys2Proof.Machine

open Sys2Proof

/-- One step: select, decode, execute. -/
def step (s : State) : Host.Outcome State Fault Refusal :=
  match fetch s with
  | (none, t) => .next t
  | (some (f, bytes), t) =>
    match decode f bytes with
    | .ok i => exec i t
    | .error e => .refused (.undecodable e)

/-- The state whose very next step runs the operation that the table's word stands for (log 10). -/
def State.withFetchWord (s : State) (nbits w : Nat) : State :=
  placeWord (tableWord nbits w).1 (tableWord nbits w).2 s

end Sys2Proof.Machine
end

