-- ==== Sys2Proof/Safety.lean ====
section
/-!
DEFINITION. What counts as a safe state and as legal parameters, in the terms claims use: the ranges of
the registers (spec R11, R13, R17, R20, R25), the meaning of the two due marks at each phase (R23, R24, R144), the
agreement of the snapshot with what is sent (R166, R167) and the shape of the output trace (R161, R165).
-/

namespace Sys2Proof.Machine

open Sys2Proof

/-- The entry is a move of the environment, not an operation word presented by itself. -/
def Entry.isMove : Entry → Bool
  | .env _ => true
  | .word _ _ => false

/-- No operation word is presented by itself: the states of the core as the spec describes it (log 3). -/
abbrev OnlyMoves (s : State) : Prop := ∀ e ∈ s.script, Entry.isMove e = true

/-- What the spec asks of the parameters of R3, so that a change of one keeps the others' meaning. -/
structure Legal (c : Config) : Prop where
  /-- `ACC_RESET` between the thresholds, which are therefore apart (R17, decision D4). -/
  acc_low : -(c.accStep : Int) < c.accReset
  /-- `ACC_RESET` between the thresholds (R17, decision D4). -/
  acc_high : c.accReset < c.accStep
  /-- `TICK_PERIOD` is positive (decision D7). -/
  period : 0 < c.tickPeriod
  /-- `DIV_RESET` is a residue of `DIV_N` (R135, decision D6). -/
  div_reset : c.divReset < c.divN
  /-- `ATT_RESET` lies in the level's range (R11). -/
  att_low : c.attMin ≤ c.attReset
  /-- `ATT_RESET` lies in the level's range (R11). -/
  att_high : c.attReset ≤ c.attMax
  /-- A level fits the seven value bits of the bus payload's byte 0 (R60, R67). -/
  att_fits : c.attMax ≤ 127
  /-- The power-on switch word keeps the group rule (R13, R31). -/
  sw_reset : legalSw c.swReset = true
  /-- The bus payload has two bytes (R66). -/
  bus_len : c.busLen = 2

/-- A record with the constant arguments of every transaction and byte 0 in 0 to 127 (R161, R167). -/
def recordOk (c : Config) : Record → Bool
  | .bus addr b0 _ len flag =>
    decide (addr = c.busAddr ∧ len = c.busLen ∧ flag = c.busFlag ∧ b0 ≤ c.attMax)
  | .shift _ => true

/-- One record read by the trace automaton: `none` is failure, `some (some b)` says that the last record
was a bus transaction with byte 1 equal to `b`. A shift-out is accepted only there, with the same byte
(R165, R166). -/
def readRecord : Option (Option Byte) → Record → Option (Option Byte)
  | none, _ => none
  | some _, .bus _ _ b1 _ _ => some (some b1)
  | some (some b), .shift c => if c = b then some none else none
  | some none, .shift _ => none

/-- The automaton over a whole trace. -/
def readTrace (out : List Record) : Option (Option Byte) := out.foldl readRecord (some none)

/-- Every shift-out of the trace stands directly behind a bus transaction with the same switch word. -/
abbrev Paired (out : List Record) : Prop := readTrace out ≠ none

/-- The invariant of the core in every state it reaches. -/
structure SafeState (s : State) : Prop where
  /-- The parameters are legal (R3). -/
  legal : Legal s.cfg
  /-- `ATT` not below `ATT_MIN` (R11, R115). -/
  att_low : s.cfg.attMin ≤ s.att
  /-- `ATT` not above `ATT_MAX` (R11, R115). -/
  att_range : s.att ≤ s.cfg.attMax
  /-- At most one bit of each group of `SW` (R13, R134). -/
  sw_legal : legalSw s.sw = true
  /-- `ACC` between the thresholds (R17). -/
  acc_low : -(s.cfg.accStep : Int) < s.acc
  /-- `ACC` between the thresholds (R17). -/
  acc_high : s.acc < s.cfg.accStep
  /-- `DIV` is a residue of `DIV_N` (R20, R135). -/
  div_range : s.div < s.cfg.divN
  /-- `CAND` in 0 to 127 (R25). -/
  cand_range : s.cand ≤ s.cfg.attMax
  /-- Outside the output phases nothing is marked (R23, R24). -/
  idle : s.phase ≠ .bus → s.phase ≠ .shift → s.busDue = false ∧ s.shiftDue = false
  /-- `BUS` is entered only with its mark, the snapshot holds the switch word, and the candidate is the
  level sampled, dimmed at most if the dim bit is set (R162, R166, R167). -/
  in_bus : s.phase = .bus → s.busDue = true ∧ s.sw = s.snapSw ∧
    (s.cand = s.snapAtt ∨ (dimOn s.sw = true ∧ s.cand = dimmed s.cfg s.snapAtt))
  /-- `SHIFT` is entered only with its mark, directly behind a bus transaction of the same word (R164 to
  R166). -/
  in_shift : s.phase = .shift → s.busDue = false ∧ s.shiftDue = true ∧ s.sw = s.snapSw ∧
    readTrace s.out = some (some s.sw)
  /-- Every record has the constant arguments and a byte 0 in range (R161, R167). -/
  records : ∀ r ∈ s.out, recordOk s.cfg r = true
  /-- Shift-outs follow their bus transaction (R165, R166). -/
  paired : Paired s.out
  /-- The environment's moves are all that is to come. -/
  moves : OnlyMoves s

/-! ### Runs and scripts, for claims about several steps -/

/-- `k` steps, stopping at the first refusal. -/
def runN : Nat → State → Host.Outcome State Fault Refusal
  | 0, s => .next s
  | k + 1, s =>
    match step s with
    | .next t => runN k t
    | .fault r => .fault r
    | .refused r => .refused r

/-- Handler invocations, one per pair of line levels. -/
def edges (l : List (Bool × Bool)) : List Entry := l.map fun p => .env (.qedge p.1 p.2)

/-- The history codes that successive samples look up, from the history `h` (R93). -/
def lookups (o : SampleOrder) : Code → List (Bool × Bool) → List Code
  | _, [] => []
  | h, p :: l =>
    assemble h (sampleOf o p.1 p.2) :: lookups o (assemble h (sampleOf o p.1 p.2)) l

/-- The sum of the deltas of some lookups (R117). -/
def deltaSum (t : QTable) (cs : List Code) : Int := (cs.map (delta t)).sum

/-- A move of ScanLoop, as against one of the two interrupt sources or the clock. -/
def isLoop : EnvEvent → Bool
  | .loop _ _ => true
  | _ => false

/-! ### The one degree of freedom of the decoder (R62, R95) -/

/-- The other order of the two lines in the sample. -/
def otherOrder : SampleOrder → SampleOrder
  | .aHigh => .bHigh
  | .bHigh => .aHigh

/-- The other table. -/
def otherTable : QTable → QTable
  | .plusT => .minusT
  | .minusT => .plusT

/-- A history code with the two bits of each sample exchanged. -/
def mirrorCode (c : Code) : Code :=
  BitVec.ofBool (c.getLsbD 2) ++ BitVec.ofBool (c.getLsbD 3) ++ BitVec.ofBool (c.getLsbD 0) ++
    BitVec.ofBool (c.getLsbD 1)

/-- The same core with the lines exchanged in the sample and every table entry negated. -/
def mirror (s : State) : State :=
  { s with
    cfg := { s.cfg with sampleOrder := otherOrder s.cfg.sampleOrder, qtab := otherTable s.cfg.qtab }
    hist := mirrorCode s.hist }

end Sys2Proof.Machine
end

