-- ==== Sys2Proof/Certificates/Slice0/Obligations.lean ====
section
/-!
DEFINITION. The statements about the model, for the provers. Each docstring names the rules of the spec
it formalises, and says so where a clause is the model's own choice (a log entry) or a decision of the
spec.
-/

open Sys2Proof Sys2Proof.Machine

/-! ### Encoding and decoding -/

/-- Every well-formed operation is read back from its own word (R60, R73). -/
def Obligations.DecodeOfEncodeIsTheOperation : Prop :=
  ∀ i : Instr, WellFormed i = true → decode (encode i).1 (encode i).2 = .ok i

/-- A word that decodes has one meaning, and that operation encodes to the same word (R60, R73). -/
def Obligations.EncodeOfDecodeIsTheWord : Prop :=
  ∀ (f : OpFormat) (bytes : List Byte) (i : Instr), decode f bytes = .ok i →
    encode i = (f, bytes) ∧ WellFormed i = true

/-- A few words written out from R60, R63, R66, R68 to R70 decode to the operation they stand for. The last
clause goes through the model's own numbering of the table's words: the format is picked by the width
(DESIGN CHOICE, log 10) and byte 0 is read from the high byte (DEDUCED, log 11). -/
def Obligations.WordsWrittenOutDecode : Prop :=
  decode .qhist [0b1101] = .ok .qd1101 ∧ decode .qhist [0b0110] = .ok .qd0110 ∧
  decode .strobe [0b1] = .ok .tick ∧ decode .phase [0b011] = .ok .slEval ∧
  decode .phase [0b100] = .ok .slBus ∧ decode .busPkt [0x7F, 0x50] = .ok (.bus 127 0x50) ∧
  decode .shiftByte [0x50] = .ok (.shift 0x50) ∧ decodeTableWord 16 0x7F50 = some (.bus 127 0x50)

/-- What is legal and what is not (R69, R71): all 16 history codes, as table codes and as the wildcard of
a step outcome, and every shift byte; not the phase codes 110 and 111, nor a packet whose byte 0 exceeds
127. That the model refuses the illegal ones is its own choice (log 25). -/
def Obligations.LegalAndIllegalCodes : Prop :=
  (∀ c : Code, (∃ i, (c, i) ∈ qdRows ∧ decode .qhist [c.setWidth 8] = .ok i) ∧
    decode .qhistUp [c.setWidth 8] = .ok (.qstepUp c) ∧
    decode .qhistDown [c.setWidth 8] = .ok (.qstepDown c)) ∧
  (∀ b : Byte, decode .shiftByte [b] = .ok (.shift b)) ∧
  decode .phase [0b110] = .error .unusedPhase ∧ decode .phase [0b111] = .error .unusedPhase ∧
  (∀ b0 b1 : Byte, 127 < b0.toNat → decode .busPkt [b0, b1] = .error .busByteRange)

/-! ### A step -/

/-- A step runs the operation that the next move selects (R7, R64, R69, R70): the expiry, the code
assembled from the history and the sample, the action of the present phase, or the word presented by
itself; with an empty script the move is a free value of the environment (log 2, 3). -/
def Obligations.StepRunsTheSelectedOperation : Prop :=
  (∀ (s : State) rest, s.script = .env .tick :: rest → step s = exec .tick { s with script := rest }) ∧
  (∀ (s : State) a b rest c i, s.script = .env (.qedge a b) :: rest →
    assemble s.hist (sampleOf s.cfg.sampleOrder a b) = c → (c, i) ∈ qdRows →
    step s = exec i { s with script := rest, encA := a, encB := b }) ∧
  (∀ (s : State) w st rest i, s.script = .env (.loop w st) :: rest →
    (phaseCode s.phase, i) ∈ phaseRows →
    step s = exec i { s with script := rest, pins := w, status := st }) ∧
  (∀ (s : State) f bytes rest i, s.script = .word f bytes :: rest → decode f bytes = .ok i →
    step s = exec i { s with script := rest }) ∧
  (∀ s : State, s.script = [] →
    step s = step { s with script := [.env (Config.environment s.drawn)], drawn := s.drawn + 1 })

/-- The timer's reference counter (R82; the model's representation, log 5): a clock cycle is counted, and
the cycle that ends the period runs the expiry. -/
def Obligations.ClockCyclesEndInAnExpiry : Prop :=
  ∀ (s : State) rest, s.script = .env .clock :: rest →
    (s.tmr + 1 < s.cfg.tickPeriod → step s = .next { s with script := rest, tmr := s.tmr + 1 }) ∧
    (s.cfg.tickPeriod ≤ s.tmr + 1 → step s = exec .tick { s with script := rest, tmr := s.tmr + 1 })

/-- A word of the operation table, placed for the next step, is run by it, and only the history, the
phase and the encoder lines were set up for it (the model's own convention, log 10). -/
def Obligations.PlacedTableWordIsRunNext : Prop :=
  ∀ (s : State) (nbits w : Nat) (i : Instr), decodeTableWord nbits w = some i →
    ∃ t, step (s.withFetchWord nbits w) = exec i t ∧
      t = { s with hist := t.hist, phase := t.phase, encA := t.encA, encB := t.encB }

/-! ### The delta table -/

/-- Only `T` and `-T` meet the source's constraints (R94, R95): zero on the no-op and invalid codes, one
common unit on one ring and its opposite on the other. -/
def Obligations.OnlyTAndMinusTFitTheSource : Prop :=
  ∀ tab : Code → Int,
    ((∀ c, isNoop c = true ∨ isInvalid c = true → tab c = 0) ∧
      ∃ e : Int, (e = 1 ∨ e = -1) ∧ (∀ c ∈ ringT, tab c = e) ∧ ∀ c ∈ ringR, tab c = -e) ↔
    ((∀ c, tab c = delta .plusT c) ∨ ∀ c, tab c = delta .minusT c)

/-- Exchanging the two lines in the sample is the same as negating the table (R62, decision D2): the two
cores move in step at every handler invocation. -/
def Obligations.ExchangedLinesNegateTheTable : Prop :=
  ∀ (s t : State) a b rest, s.script = .env (.qedge a b) :: rest → step s = .next t →
    step (mirror s) = .next (mirror t)

/-! ### The edge handler -/

/-- The four no-op codes (R96, R101, R106, R111), for any `ACC_STEP` (R3): the history takes the sample, the accumulator and the
level stay, for every accumulator between the thresholds; where the history holds the code's previous
sample, the new history is the code. -/
def Obligations.NoopCodesOnlyShiftTheHistory : Prop :=
  ∀ p ∈ ([(0b0000, .qd0000), (0b0101, .qd0101), (0b1010, .qd1010), (0b1111, .qd1111)] :
      List (Code × Instr)),
    ∀ s : State, -(s.cfg.accStep : Int) < s.acc → s.acc < s.cfg.accStep →
      exec p.2 s = .next { s with hist := assemble s.hist (curOf p.1) } ∧
      (curOf s.hist = prevOf p.1 → exec p.2 s = .next { s with hist := p.1 })

/-- The four invalid codes (R99, R102, R105, R108): as the no-op codes, a zero-delta edge. -/
def Obligations.InvalidCodesOnlyShiftTheHistory : Prop :=
  ∀ p ∈ ([(0b0011, .qd0011), (0b0110, .qd0110), (0b1001, .qd1001), (0b1100, .qd1100)] :
      List (Code × Instr)),
    ∀ s : State, -(s.cfg.accStep : Int) < s.acc → s.acc < s.cfg.accStep →
      exec p.2 s = .next { s with hist := assemble s.hist (curOf p.1) } ∧
      (curOf s.hist = prevOf p.1 → exec p.2 s = .next { s with hist := p.1 })

/-- A code that counts +1 (R98, R100, R107, R109 under `T`; R97, R103, R104, R110 under `-T`; the sign
is decision D1, log 12): the accumulator goes up by one, and at +3, that is `ACC_STEP - 1`, the forward
detent happens instead (R112). The premises on the registers are clauses of `SafeState`. -/
def Obligations.ForwardCodesCountUp : Prop :=
  ∀ p ∈ ([(.plusT, 0b0010, .qd0010), (.plusT, 0b0100, .qd0100), (.plusT, 0b1011, .qd1011),
      (.plusT, 0b1101, .qd1101), (.minusT, 0b0001, .qd0001), (.minusT, 0b0111, .qd0111),
      (.minusT, 0b1000, .qd1000), (.minusT, 0b1110, .qd1110)] : List (QTable × Code × Instr)),
    ∀ s : State, s.cfg.qtab = p.1 → -(s.cfg.accStep : Int) < s.acc → s.acc < s.cfg.accStep →
      s.cfg.attMin ≤ s.att →
      exec p.2.2 s = .next (if s.acc = (s.cfg.accStep : Int) - 1
        then { s with
          hist := assemble s.hist (curOf p.2.1), acc := 0
          att := if s.att = s.cfg.attMin then s.att else s.att - 1 }
        else { s with hist := assemble s.hist (curOf p.2.1), acc := s.acc + 1 })

/-- A code that counts -1 (R97, R103, R104, R110 under `T`; R98, R100, R107, R109 under `-T`; the sign
is decision D1, log 12): the accumulator goes down by one, and at -3, that is `-(ACC_STEP - 1)`, the reverse
detent happens instead (R113). The premises on the registers are clauses of `SafeState`. -/
def Obligations.ReverseCodesCountDown : Prop :=
  ∀ p ∈ ([(.plusT, 0b0001, .qd0001), (.plusT, 0b0111, .qd0111), (.plusT, 0b1000, .qd1000),
      (.plusT, 0b1110, .qd1110), (.minusT, 0b0010, .qd0010), (.minusT, 0b0100, .qd0100),
      (.minusT, 0b1011, .qd1011), (.minusT, 0b1101, .qd1101)] : List (QTable × Code × Instr)),
    ∀ s : State, s.cfg.qtab = p.1 → -(s.cfg.accStep : Int) < s.acc → s.acc < s.cfg.accStep →
      s.att ≤ s.cfg.attMax →
      exec p.2.2 s = .next (if s.acc = -((s.cfg.accStep : Int) - 1)
        then { s with
          hist := assemble s.hist (curOf p.2.1), acc := 0
          att := if s.att = s.cfg.attMax then s.att else s.att + 1 }
        else { s with hist := assemble s.hist (curOf p.2.1), acc := s.acc - 1 })

/-- `QSTEP.UP` (R112, with the parameters of R3): when the lookup takes the accumulator above +3, that is
`ACC_STEP - 1`, the accumulator is reset and the level goes down by one unless it is already `ATT_MIN`;
nothing else is written. The range of the level is a clause of `SafeState`. That the row is run by itself, on
the accumulator before the add and with no history shift, is the model's reading (DEDUCED, log 19). -/
def Obligations.ForwardDetentResetsAndStepsDown : Prop :=
  ∀ (c : Code) (s : State), s.acc + delta s.cfg.qtab c > (s.cfg.accStep : Int) - 1 →
    s.cfg.attMin ≤ s.att →
    exec (.qstepUp c) s =
      .next { s with acc := 0, att := if s.att = s.cfg.attMin then s.att else s.att - 1 }

/-- `QSTEP.DOWN` (R113, with the parameters of R3): when the lookup takes the accumulator below -3, that is
`-(ACC_STEP - 1)`, the accumulator is reset and the level goes up by one unless it is already `ATT_MAX`;
nothing else is written. The range of the level is a clause of `SafeState`. That the row is run by itself, on
the accumulator before the add and with no history shift, is the model's reading (DEDUCED, log 19). -/
def Obligations.ReverseDetentResetsAndStepsUp : Prop :=
  ∀ (c : Code) (s : State), s.acc + delta s.cfg.qtab c < -((s.cfg.accStep : Int) - 1) →
    s.att ≤ s.cfg.attMax →
    exec (.qstepDown c) s =
      .next { s with acc := 0, att := if s.att = s.cfg.attMax then s.att else s.att + 1 }

/-- A step outcome that is not selected does nothing (the model's choice, log 19; the condition is that
of R112, R113). -/
def Obligations.UnselectedDetentDoesNothing : Prop :=
  ∀ (c : Code) (s : State),
    (s.acc + delta s.cfg.qtab c ≤ (s.cfg.accStep : Int) - 1 → exec (.qstepUp c) s = .next s) ∧
    (-((s.cfg.accStep : Int) - 1) ≤ s.acc + delta s.cfg.qtab c → exec (.qstepDown c) s = .next s)

/-- The whole handler is the history shift followed by at most one of the two step outcomes, or by the
plain count (R90, R95, R114). That an outcome's row is run by itself, and does nothing where its condition
does not hold, is the model's reading (DEDUCED, log 19), which those rules do not state. An accumulator
outside the thresholds, which no run reaches, is stepped as log 30 says, a level outside its range as log 26
says. -/
def Obligations.HandlerIsShiftThenAtMostOneDetent : Prop :=
  ∀ (c : Code) (i : Instr), (c, i) ∈ qdRows → ∀ s : State, 0 < s.cfg.accStep →
    let a := s.acc + delta s.cfg.qtab c
    let u := { s with hist := assemble s.hist (curOf c) }
    (a > (s.cfg.accStep : Int) - 1 →
      exec i s = exec (.qstepUp c) u ∧ exec (.qstepDown c) u = .next u) ∧
    (a < -((s.cfg.accStep : Int) - 1) →
      exec i s = exec (.qstepDown c) u ∧ exec (.qstepUp c) u = .next u) ∧
    (-((s.cfg.accStep : Int) - 1) ≤ a → a ≤ (s.cfg.accStep : Int) - 1 →
      exec i s = .next { u with acc := a })

/-- The handler, and each step outcome, writes no register but `HIST`, `ACC` and `ATT`, and calls no
collaborator (R119). -/
def Obligations.HandlerWritesOnlyItsThreeRegisters : Prop :=
  ∀ (c : Code) (i : Instr), ((c, i) ∈ qdRows ∨ i = .qstepUp c ∨ i = .qstepDown c) →
    ∀ s t : State, exec i s = .next t → t = { s with hist := t.hist, acc := t.acc, att := t.att }

/-- The ranges that every invocation keeps, and the size of its step (R114, R115). -/
def Obligations.HandlerKeepsRangesAndStepsByOne : Prop :=
  ∀ (c : Code) (i : Instr), (c, i) ∈ qdRows → ∀ s t : State,
    s.cfg.attMin ≤ s.att → s.att ≤ s.cfg.attMax →
    -(s.cfg.accStep : Int) < s.acc → s.acc < s.cfg.accStep → exec i s = .next t →
      s.cfg.attMin ≤ t.att ∧ t.att ≤ s.cfg.attMax ∧
      -(s.cfg.accStep : Int) < t.acc ∧ t.acc < s.cfg.accStep ∧
      (t.att = s.att ∨ t.att.toNat + 1 = s.att.toNat ∨ t.att.toNat = s.att.toNat + 1) ∧
      (t.att ≠ s.att → t.acc = 0)

/-- Counting edges (R117, R118): after a step, any sequence of invocations whose delta sum stays within
the band moves nothing but the count; one whose sum first reaches `ACC_STEP` (4), or its negative, with its
last edge makes exactly one step louder (quieter), clamped; everything but the decoder's registers and the
lines is as before. -/
def Obligations.EdgeSumsMakeExactlyOneStep : Prop :=
  ∀ (s : State) (l : List (Bool × Bool)) (rest : List Entry),
    s.script = edges l ++ rest → s.acc = 0 → 0 < s.cfg.accStep →
    s.cfg.attMin ≤ s.att → s.att ≤ s.cfg.attMax →
    let cs := lookups s.cfg.sampleOrder s.hist l
    let n : Int := s.cfg.accStep
    let total := deltaSum s.cfg.qtab cs
    (∀ k, k < l.length → -n < deltaSum s.cfg.qtab (cs.take k) ∧ deltaSum s.cfg.qtab (cs.take k) < n) →
    ∃ t, runN l.length s = .next t ∧
      t = { s with
        script := rest, hist := t.hist, encA := t.encA, encB := t.encB
        acc := if total = n ∨ total = -n then 0 else total
        att := if total = n then louder s.cfg s.att
          else if total = -n then quieter s.cfg s.att else s.att }

/-- `ACC_STEP` edges (four) round one ring are one detent (R95, R112, R113; the source's first testable
property): from a cleared accumulator, as many lookups on the forward ring of the table in use make the level
one step louder and clear the accumulator, on the other ring one step quieter. -/
def Obligations.FourEdgesOfOneRingAreOneDetent : Prop :=
  ∀ (s : State) (l : List (Bool × Bool)) (rest : List Entry),
    s.script = edges l ++ rest → s.acc = 0 → 0 < s.cfg.accStep → l.length = s.cfg.accStep →
    s.cfg.attMin ≤ s.att → s.att ≤ s.cfg.attMax →
    ((∀ c ∈ lookups s.cfg.sampleOrder s.hist l, c ∈ ringT) →
      ∃ t, runN l.length s = .next t ∧ t.acc = 0 ∧
        t.att = if s.cfg.qtab = .plusT then louder s.cfg s.att else quieter s.cfg s.att) ∧
    ((∀ c ∈ lookups s.cfg.sampleOrder s.hist l, c ∈ ringR) →
      ∃ t, runN l.length s = .next t ∧ t.acc = 0 ∧
        t.att = if s.cfg.qtab = .plusT then quieter s.cfg s.att else louder s.cfg s.att)

/-! ### The timer -/

/-- `TICK` sets the flag whatever its previous value, reads nothing and writes nothing else (R80): the
reload leaves one fixed value in the timer, whatever the state; which one is not said here. -/
def Obligations.TickSetsTheFlagAndNothingElse : Prop :=
  ∃ n, ∀ s : State, exec .tick s = .next { s with scanDue := true, tmr := n }

/-- A tick that finds the flag set is dropped: the state is exactly as it was, apart from the timer's
reload (R81). -/
def Obligations.SecondTickIsDropped : Prop :=
  ∀ s : State, s.scanDue = true → ∃ n, exec .tick s = .next { s with tmr := n }

/-! ### ScanLoop -/

/-- `SL.WAIT` (R130): a set flag is cleared at once and the loop goes on to `SCAN`; a clear flag leaves the
state as it is, still polling; no other phase action touches the flag, so a tick that arrives later in the
iteration is kept for the next `SL.WAIT`. -/
def Obligations.WaitPollsAndClearsTheFlag : Prop :=
  ∀ s : State,
    (s.scanDue = true → exec .slWait s = .next { s with scanDue := false, phase := .scan }) ∧
    (s.scanDue = false → s.phase = .wait → exec .slWait s = .next s) ∧
    (s.scanDue = false → exec .slWait s = .next { s with phase := .wait }) ∧
    (∀ t, exec .tick s = .next t → t.scanDue = true) ∧
    (∀ j ∈ ([.slScan, .slDiv, .slEval, .slBus, .slShift] : List Instr), ∀ t,
      exec j s = .next t → t.scanDue = s.scanDue)

/-- `SL.SCAN` (R133): the debounce service is called once, then each of the four scanners once in the
fixed order; they leave the word of what the environment shows in `SW`, and the loop goes on to `DIV`. -/
def Obligations.ScanCallsAllCollaboratorsInOrder : Prop :=
  ∀ s : State, exec .slScan s = .next { s with
    sw := scanWord s.pins
    phase := .div
    calls := s.calls ++ [.debounceTick, .scan .input, .scan .output, .scan .mono, .scan .dim] }

/-- Each scanner changes only the bits of its own slot, and each bit of `SW` belongs to one slot (R12,
R134, R185). -/
def Obligations.ScannersWriteOnlyTheirOwnSlot : Prop :=
  (∀ (slot : Slot) (s : State) (i : Nat), i < 8 →
    (scanSlot slot s).sw.getLsbD i =
      if (slotMask slot).getLsbD i then (scanWord s.pins).getLsbD i else s.sw.getLsbD i) ∧
  (∀ i, i < 8 → ∃ slot, (slotMask slot).getLsbD i = true ∧
    ∀ other, (slotMask other).getLsbD i = true → other = slot)

/-- What a scan may do to `SW` (R134): the words that `SL.SCAN` can leave are exactly those with at most one
bit set in 7:5 and at most one in 4:2, from any old word; each scanner changes only the bits of its slot. That
every such word can be drawn is decision D18 of the spec, which the model follows (DESIGN CHOICE, log 9). -/
def Obligations.ScannedWordsAreExactlyTheLegalOnes : Prop :=
  (∀ (s : State) (w : Byte),
    (∃ x t, exec .slScan { s with pins := x } = .next t ∧ t.sw = w) ↔
      ((w.getLsbD 7).toNat + (w.getLsbD 6).toNat + (w.getLsbD 5).toNat ≤ 1 ∧
        (w.getLsbD 4).toNat + (w.getLsbD 3).toNat + (w.getLsbD 2).toNat ≤ 1)) ∧
  (∀ (slot : Slot) (s : State) (i : Nat), i < 8 → (slotMask slot).getLsbD i = false →
    (scanSlot slot s).sw.getLsbD i = s.sw.getLsbD i)

/-- Whatever the environment does, placed or free, a switch word with at most one bit in each group keeps
that (R13, R134, R189), and a scan restores it. -/
def Obligations.LawfulScansKeepTheGroupInvariant : Prop :=
  ∀ (s t : State), OnlyMoves s → step s = .next t →
    (legalSw s.sw = true → legalSw t.sw = true) ∧ (t.calls ≠ s.calls → legalSw t.sw = true)

/-- `SL.DIV` (R135, decision D6): increment, then test; so of the next `DIV_N` (16) serviced ticks exactly
one evaluates, the one that wraps the counter. -/
def Obligations.DividerEvaluatesOneTickInSixteen : Prop :=
  (∀ s : State, exec .slDiv s = .next { s with
    div := (s.div + 1) % s.cfg.divN
    phase := if (s.div + 1) % s.cfg.divN = 0 then .eval else .wait }) ∧
  (∀ n d k : Nat, d < n → 0 < k → k ≤ n → ((divNext n)^[k] d = 0 ↔ k + d = n))

/-- `SL.EVAL` (R137, R138, R140, R141, R144): a changed switch word marks both updates, a changed level
marks the bus; the snapshot takes both raw values; the candidate is the level read, raised by `DIM_OFFSET`
(32) and held at `ATT_MAX` (127) only if the level changed while the dim bit is set; then the loop goes to `BUS`, `SHIFT` or `WAIT`. -/
def Obligations.EvaluationMarksSnapshotsAndDispatches : Prop :=
  ∀ s : State, exec .slEval s = .next { s with
    shiftDue := s.shiftDue || decide (s.sw ≠ s.snapSw)
    busDue := s.busDue || decide (s.sw ≠ s.snapSw) || decide (s.att ≠ s.snapAtt)
    snapSw := s.sw
    snapAtt := s.att
    cand := if s.att ≠ s.snapAtt ∧ s.sw.getLsbD 0 = true
      then BitVec.ofNat 8 (min (s.att.toNat + s.cfg.dimOffset) s.cfg.attMax.toNat) else s.att
    phase := if s.busDue = true ∨ s.sw ≠ s.snapSw ∨ s.att ≠ s.snapAtt then .bus
      else if s.shiftDue = true then .shift else .wait }

/-- Any switch change with an unchanged level, the dim bit included, sends the raw level and the new
switch word, then shifts that word out (R142, R143). -/
def Obligations.SwitchChangeAloneSendsTheRawLevel : Prop :=
  ∀ s : State, s.sw ≠ s.snapSw → s.att = s.snapAtt →
    ∃ t u v, exec .slEval s = .next t ∧ t.phase = .bus ∧
      exec .slBus t = .next u ∧ u.phase = .shift ∧
      exec .slShift u = .next v ∧ v.phase = .wait ∧ v.busDue = false ∧ v.shiftDue = false ∧
      v.out = s.out ++ [.bus s.cfg.busAddr s.att s.sw s.cfg.busLen s.cfg.busFlag, .shift s.sw]

/-- A change is reported at most once (R145): after an evaluation, a later one that finds the same switch
word and level, the marks having been served, marks nothing and returns to `WAIT`. -/
def Obligations.ChangeIsReportedAtMostOnce : Prop :=
  ∀ s t u : State, exec .slEval s = .next t →
    u.sw = s.sw → u.att = s.att → u.snapSw = t.snapSw → u.snapAtt = t.snapAtt →
    u.busDue = false → u.shiftDue = false →
    exec .slEval u = .next { u with cand := u.att, phase := .wait }

/-- ScanLoop never writes the decoder's registers or the timer and never sets the flag (R147). -/
def Obligations.ScanLoopNeverWritesTheDecoder : Prop :=
  ∀ i ∈ ([.slWait, .slScan, .slDiv, .slEval, .slBus, .slShift] : List Instr), ∀ s t : State,
    exec i s = .next t →
      t.att = s.att ∧ t.hist = s.hist ∧ t.acc = s.acc ∧ t.tmr = s.tmr ∧
      (t.scanDue = true → s.scanDue = true)

/-- The loop's phases follow the table of R132 at ScanLoop's moves, and no other move changes the phase
(R26, decision D13). -/
def Obligations.PhasesFollowTheLoop : Prop :=
  ∀ (s t : State) e rest, s.script = .env e :: rest → step s = .next t →
    (isLoop e = false → t.phase = s.phase) ∧
    (isLoop e = true → match s.phase with
      | .wait => t.phase = if s.scanDue then .scan else .wait
      | .scan => t.phase = .div
      | .div => t.phase = if t.div = 0 then .eval else .wait
      | .eval => t.phase = if t.busDue then .bus else if t.shiftDue then .shift else .wait
      | .bus => t.phase = if s.shiftDue then .shift else .wait
      | .shift => t.phase = .wait)

/-- Whatever interrupts arrive in between, five moves of ScanLoop bring the loop to `WAIT` (R132, R168: the
output steps always complete, which is DESIGN CHOICE log 17 for a bus that might hang). -/
def Obligations.LoopReturnsToWait : Prop :=
  ∀ (s : State) (l : List EnvEvent) (rest : List Entry),
    s.script = l.map .env ++ rest → 5 ≤ (l.filter isLoop).length →
    ∃ k t, k ≤ l.length ∧ runN k s = .next t ∧ t.phase = .wait

/-! ### Output -/

/-- `SL.BUS` (R162): one record with the candidate, the switch word and the constant arguments; the mark is
cleared; the loop goes on to `SHIFT` if that mark is set, else to `WAIT`; no operation enters the phase
without its mark. -/
def Obligations.BusPhaseSendsOnePacket : Prop :=
  (∀ s : State, exec .slBus s = .next { s with
    out := s.out ++ [.bus s.cfg.busAddr s.cand s.sw s.cfg.busLen s.cfg.busFlag]
    busDue := false
    phase := if s.shiftDue then .shift else .wait }) ∧
  (∀ (i : Instr) (s t : State), exec i s = .next t → s.phase ≠ .bus → t.phase = .bus →
    t.busDue = true)

/-- `SL.SHIFT` (R164): one shift-out of the switch word as it stands; the mark is cleared; the loop returns
to `WAIT`; no operation enters the phase without its mark. -/
def Obligations.ShiftPhaseSendsTheSwitchWord : Prop :=
  (∀ s : State, exec .slShift s = .next { s with
    out := s.out ++ [.shift s.sw], shiftDue := false, phase := .wait }) ∧
  (∀ (i : Instr) (s t : State), exec i s = .next t → s.phase ≠ .shift → t.phase = .shift →
    t.shiftDue = true)

/-- The output operations by themselves (R160, R161, R164; log 20): one record is appended, nothing else
changes. -/
def Obligations.OutputRecordsAreAppended : Prop :=
  (∀ (b0 b1 : Byte) (s : State), exec (.bus b0 b1) s =
    .next { s with out := s.out ++ [.bus s.cfg.busAddr b0 b1 s.cfg.busLen s.cfg.busFlag] }) ∧
  (∀ (b : Byte) (s : State), exec (.shift b) s = .next { s with out := s.out ++ [.shift b] })

/-- The bus status is ignored by every operation (R176): the same next state but for the status itself. -/
def Obligations.BusStatusChangesNothing : Prop :=
  ∀ (i : Instr) (s t : State) (st : Nat), exec i s = .next t →
    exec i { s with status := st } = .next { t with status := st }

/-- The packet is fixed before the bus phase (R139, R162, R167): whatever handlers run between the
evaluation and the bus transaction, byte 0 is the level sampled in the evaluation, or that level dimmed if
it had changed while dim is on, and byte 1 is the switch word. -/
def Obligations.PacketIsFixedByTheEvaluation : Prop :=
  ∀ (s t : State) (l : List EnvEvent) w st rest,
    exec .slEval s = .next t → t.phase = .bus →
    (∀ e ∈ l, isLoop e = false) →
    ∃ v, runN (l.length + 1)
        { t with script := l.map .env ++ .env (.loop w st) :: rest } = .next v ∧
      v.out = s.out ++ [.bus s.cfg.busAddr
        (if s.att ≠ s.snapAtt ∧ s.sw.getLsbD 0 = true
          then BitVec.ofNat 8 (min (s.att.toNat + s.cfg.dimOffset) s.cfg.attMax.toNat) else s.att)
        s.sw s.cfg.busLen s.cfg.busFlag] ∧
      v.snapAtt = s.att ∧ v.snapSw = s.sw ∧ v.script = rest

/-! ### Contexts and interleaving -/

/-- Each register is written only by its owner (R10, R27), over all operations. -/
def Obligations.EachRegisterHasItsOwner : Prop :=
  ∀ (i : Instr) (s t : State), exec i s = .next t →
    (t.hist ≠ s.hist → ∃ c, (c, i) ∈ qdRows) ∧
    (t.acc ≠ s.acc ∨ t.att ≠ s.att → ∃ c, (c, i) ∈ qdRows ∨ i = .qstepUp c ∨ i = .qstepDown c) ∧
    (t.tmr ≠ s.tmr → i = .tick) ∧
    (s.scanDue = false → t.scanDue = true → i = .tick) ∧
    (s.scanDue = true → t.scanDue = false → i = .slWait) ∧
    (t.sw ≠ s.sw ∨ t.calls ≠ s.calls → i = .slScan) ∧
    (t.div ≠ s.div → i = .slDiv) ∧
    (t.snapSw ≠ s.snapSw ∨ t.snapAtt ≠ s.snapAtt ∨ t.cand ≠ s.cand → i = .slEval) ∧
    (t.busDue ≠ s.busDue → i = .slEval ∨ i = .slBus) ∧
    (t.shiftDue ≠ s.shiftDue → i = .slEval ∨ i = .slShift) ∧
    (t.phase ≠ s.phase → ∃ p : Phase, (phaseCode p, i) ∈ phaseRows) ∧
    (t.out ≠ s.out → i = .slBus ∨ i = .slShift ∨ (∃ b0 b1, i = .bus b0 b1) ∨ ∃ b, i = .shift b) ∧
    t.cfg = s.cfg ∧ t.script = s.script ∧ t.drawn = s.drawn ∧
    t.encA = s.encA ∧ t.encB = s.encB ∧ t.pins = s.pins ∧ t.status = s.status

/-- A timer expiry and a handler invocation give the same state in either order (R181). -/
def Obligations.ExpiryAndEdgeCommute : Prop :=
  ∀ (c : Code) (i : Instr), (c, i) ∈ qdRows → ∀ s : State,
    ∃ t u v, exec .tick s = .next t ∧ exec i t = .next v ∧ exec i s = .next u ∧ exec .tick u = .next v

/-- A handler invocation commutes with every phase action but the one that reads `ATT`, and an expiry with
every phase action but the one that polls the flag (R45). -/
def Obligations.HandlersCommuteWithPhaseActions : Prop :=
  (∀ (c : Code) (i : Instr), (c, i) ∈ qdRows →
    ∀ j ∈ ([.slWait, .slScan, .slDiv, .slBus, .slShift] : List Instr), ∀ s : State,
      ∃ t u v, exec i s = .next t ∧ exec j t = .next v ∧ exec j s = .next u ∧ exec i u = .next v) ∧
  (∀ j ∈ ([.slScan, .slDiv, .slEval, .slBus, .slShift] : List Instr), ∀ s : State,
    ∃ t u v, exec .tick s = .next t ∧ exec j t = .next v ∧ exec j s = .next u ∧ exec .tick u = .next v)

/-- The race of an expiry with the poll (R49, R207): an expiry before a poll that finds the flag set merges
with the tick being serviced, and one that comes after the clear is kept. -/
def Obligations.ExpiryRacingThePollIsMergedOrKept : Prop :=
  ∀ s : State, s.scanDue = true →
    ∃ t u v x, exec .slWait s = .next t ∧ exec .tick s = .next u ∧ exec .slWait u = .next v ∧
      v = { t with tmr := v.tmr } ∧ exec .tick t = .next x ∧ x.scanDue = true ∧ x.phase = .scan

/-! ### Errors, boot and whole runs -/

/-- No operation raises anything, in any state (R175). That `SL.BUS` and `SL.SHIFT` always complete is R168
with the model's choice for a bus that might hang (DESIGN CHOICE, log 17; U10). 'In any state' takes in
states that no run reaches, where U12 would refuse and the model applies the rules as they stand (DESIGN
CHOICE, log 4, 26, 30); the table's outcome and output rows run by themselves as log 19 and 20 read them. -/
def Obligations.EveryOperationCompletes : Prop :=
  ∀ (i : Instr) (s : State), ∃ t, exec i s = .next t

/-- No move of the environment stops the core, placed or free (R71, R175; free moves: log 2). A move of
ScanLoop in phase `BUS` or `SHIFT` completes by R168 and the model's choice for a bus that might hang (DESIGN
CHOICE, log 17; U10); in states outside the invariant the rules are applied as they stand (DESIGN CHOICE,
log 4, 26, 30). -/
def Obligations.NoMoveStopsTheCore : Prop :=
  ∀ s : State, OnlyMoves s → ∃ t, step s = .next t ∧ OnlyMoves t

/-- A presented word that is no encoding stops the machine by name (the model's choice, log 3 and 25). -/
def Obligations.UndecodableWordsAreRefused : Prop :=
  ∀ (s : State) f bytes rest e, s.script = .word f bytes :: rest → decode f bytes = .error e →
    step s = .refused (.undecodable e)

/-- The default parameters have the values of the table of R3; those of its signs, order and reset values
are decisions (log 12 to 15), and the OPEN ones are not said here. -/
def Obligations.StandardParametersAreTheSourcesTable : Prop :=
  let c := Config.standard
  c.attMin = 0 ∧ c.attMax = 127 ∧ c.attReset = 127 ∧ c.swReset = 0b10010000 ∧ c.dimOffset = 32 ∧
  c.accStep = 4 ∧ c.divN = 16 ∧ c.busLen = 2 ∧ c.sampleOrder = .aHigh ∧ c.histReset = 0 ∧
  c.accReset = 0 ∧ c.snapSwReset = c.swReset ∧ c.snapAttReset = c.attReset ∧ c.divReset = 0 ∧
  0 < c.tickPeriod ∧
  (List.range 16).map (fun n => delta c.qtab (BitVec.ofNat 4 n)) =
    [0, -1, 1, 0, 1, 0, 0, -1, -1, 0, 0, 1, 0, 1, -1, 0]

/-- The two power-on values the source states (R31, R200): the parameters `ATT_RESET` and `SW_RESET`, by
default 127 and 10010000. -/
def Obligations.PowerOnLevelAndSwitchWord : Prop :=
  (∀ c : Config, (State.resetWith c).att = c.attReset ∧ (State.resetWith c).sw = c.swReset) ∧
  State.reset.att = 127 ∧ State.reset.sw = 0x90

/-- The entry state (R31, R201, R202): the loop waits with the flag clear, nothing is marked, nothing has
been sent, and the debounce service has been initialised. These values are the spec's decisions D3 to D6,
D10, D13 and D15, not the source's (log 14, 15, 27). -/
def Obligations.EntryStateWaitsAndHasSentNothing : Prop :=
  (∀ c : Config, let s := State.resetWith c
    s.phase = .wait ∧ s.scanDue = false ∧ s.busDue = false ∧ s.shiftDue = false ∧ s.out = [] ∧
    s.calls = [.debounceInit] ∧ s.hist = c.histReset ∧ s.acc = c.accReset ∧ s.div = c.divReset ∧
    s.snapSw = c.snapSwReset ∧ s.snapAtt = c.snapAttReset) ∧
  State.reset.hist = 0 ∧ State.reset.acc = 0 ∧ State.reset.div = 0 ∧
  State.reset.snapSw = 0x90 ∧ State.reset.snapAtt = 127

/-- The first evaluation reports the power-on state exactly if the snapshot starts different from it (R201,
decision D5; log 15): with any parameters, if nothing has moved since boot. The power-on level is sent raw
unless the power-on word has dim on and the snapshot's level differs (R141). -/
def Obligations.PowerOnStateIsReportedIfSnapshotDiffers : Prop :=
  ∀ (c : Config) (d : Nat),
    ∃ t, exec .slEval { State.resetWith c with phase := .eval, div := d } = .next t ∧
      (t.busDue = true ↔ c.snapSwReset ≠ c.swReset ∨ c.snapAttReset ≠ c.attReset) ∧
      (t.shiftDue = true ↔ c.snapSwReset ≠ c.swReset) ∧
      t.cand = if c.attReset ≠ c.snapAttReset ∧ c.swReset.getLsbD 0 = true
        then BitVec.ofNat 8 (min (c.attReset.toNat + c.dimOffset) c.attMax.toNat) else c.attReset

/-- Every core with legal parameters meets the invariant after boot, and the default ones are legal. The
registers' reset values are R31's with decisions D3 to D6, D10 and D13 (log 14); `CAND`, which R31 leaves
unspecified, starts at the model's 0 (DESIGN CHOICE, log 6), and nothing is placed in the script (log 2). -/
def Obligations.ResetMeetsTheInvariant : Prop :=
  (∀ c : Config, Legal c → SafeState (State.resetWith c)) ∧ SafeState State.reset

/-- Every step keeps the invariant (R11, R13, R17, R20, R23 to R25, R134, R144, R161, R165 to R167). -/
def Obligations.EveryStepKeepsTheInvariant : Prop :=
  ∀ s t : State, SafeState s → step s = .next t → SafeState t

/-- From every safe state, and so from boot with legal parameters and any moves placed, a run of any length
never stops and stays safe, whatever the environment does: the moves are those placed and, when they are used
up, free values (log 2). Nothing is raised (R175), and the output phases complete by R168 and the model's
choice for a bus that might hang (DESIGN CHOICE, log 17; U10). The invariant is that of R11, R13, R17, R23 to R25, R144,
R161, R165 to R167, and at boot it rests on `CAND = 0` (DESIGN CHOICE, log 6). -/
def Obligations.RunsFromBootNeverStopAndStaySafe : Prop :=
  (∀ (s : State) (n : Nat), SafeState s → ∃ t, runN n s = .next t ∧ SafeState t ∧ t.cfg = s.cfg) ∧
  (∀ (c : Config) (l : List EnvEvent) (n : Nat), Legal c →
    ∃ t, runN n { State.resetWith c with script := l.map .env } = .next t ∧ SafeState t ∧ t.cfg = c)

/-- The parameters are fixed and both traces only grow (R3, R30, R160). -/
def Obligations.ParametersAreFixedAndTracesOnlyGrow : Prop :=
  ∀ s t : State, step s = .next t →
    t.cfg = s.cfg ∧ (∃ more, t.out = s.out ++ more ∧ more.length ≤ 1) ∧ ∃ more, t.calls = s.calls ++ more
end

