-- ==== Sys2Proof/Laws/Operands.lean ====
section
/-!
SUPPORT. What the value-level operations compute: history assembly, delta table, thresholds and clamps,
switch slots, dim transform, divider.
-/

namespace Sys2Proof.Machine

open Sys2Proof

/-! ### History and table -/

@[simp] theorem curOf_assemble (h : Code) (x : Sample) : curOf (assemble h x) = x := by
  revert h x; decide

@[simp] theorem prevOf_assemble (h : Code) (x : Sample) : prevOf (assemble h x) = curOf h := by
  revert h x; decide

/-- The assembled code is the code itself when the history holds its previous sample. -/
theorem assemble_of_match (h c : Code) (hm : curOf h = prevOf c) : assemble h (curOf c) = c := by
  revert h c; decide

@[simp] theorem sampleOf_linesOf (o : SampleOrder) (x : Sample) :
    sampleOf o (linesOf o x).1 (linesOf o x).2 = x := by
  cases o <;> revert x <;> decide

theorem delta_minus (c : Code) : delta .minusT c = -delta .plusT c := rfl

theorem delta_cases (t : QTable) (c : Code) : delta t c = -1 ∨ delta t c = 0 ∨ delta t c = 1 := by
  cases t <;> revert c <;> decide

theorem delta_noop (t : QTable) (c : Code) (h : isNoop c = true) : delta t c = 0 := by
  cases t <;> revert c <;> decide

theorem delta_invalid (t : QTable) (c : Code) (h : isInvalid c = true) : delta t c = 0 := by
  cases t <;> revert c <;> decide

theorem delta_mirror (t : QTable) (c : Code) : delta (otherTable t) (mirrorCode c) = delta t c := by
  cases t <;> revert c <;> decide

theorem curOf_mirror (c : Code) : curOf (mirrorCode c) = (curOf c).reverse := by
  revert c; decide

theorem assemble_mirror (h : Code) (x : Sample) :
    assemble (mirrorCode h) x.reverse = mirrorCode (assemble h x) := by
  revert h x; decide

theorem sampleOf_other (o : SampleOrder) (a b : Bool) :
    sampleOf (otherOrder o) a b = (sampleOf o a b).reverse := by
  cases o <;> cases a <;> cases b <;> decide

/-! ### Thresholds and clamps -/

/-- Between the thresholds nothing happens. -/
theorem hysteresis_band (c : Config) (acc : Int) (att : Byte) (lo : -(c.accStep : Int) < acc)
    (hi : acc < c.accStep) : hysteresis c acc att = (acc, att) := by
  have h5 : ¬ overUp c acc := by simp only [overUp]; omega
  have h6 : ¬ underDown c acc := by simp only [underDown]; omega
  rw [hysteresis, stepFive, if_neg h5, stepSix, if_neg h6]

/-- Above the threshold: one step louder, and step 6 then finds 0. -/
theorem hysteresis_up (c : Config) (acc : Int) (att : Byte) (pos : 0 < c.accStep)
    (h : (c.accStep : Int) - 1 < acc) : hysteresis c acc att = (0, louder c att) := by
  have h5 : overUp c acc := by simp only [overUp]; omega
  have h6 : ¬ underDown c 0 := by simp only [underDown]; omega
  rw [hysteresis, stepFive, if_pos h5, stepSix, if_neg h6]

/-- Below the lower threshold: one step quieter. -/
theorem hysteresis_down (c : Config) (acc : Int) (att : Byte) (pos : 0 < c.accStep)
    (h : acc < -((c.accStep : Int) - 1)) : hysteresis c acc att = (0, quieter c att) := by
  have h5 : ¬ overUp c acc := by simp only [overUp]; omega
  have h6 : underDown c acc := by simp only [underDown]; omega
  rw [hysteresis, stepFive, if_neg h5, stepSix, if_pos h6]

/-- The thresholds and clamps do not look at the table or the line order. -/
theorem hysteresis_mirror (c : Config) (o : SampleOrder) (t : QTable) (acc : Int) (att : Byte) :
    hysteresis { c with sampleOrder := o, qtab := t } acc att = hysteresis c acc att := rfl

/-- In the range, one step louder is one less, held at `ATT_MIN`. -/
theorem louder_toNat (c : Config) (a : Byte) (h : c.attMin ≤ a) :
    (louder c a).toNat = max (a.toNat - 1) c.attMin.toNat := by
  unfold louder
  split <;> bv_omega

/-- In the range, one step quieter is one more, held at `ATT_MAX`. -/
theorem quieter_toNat (c : Config) (a : Byte) (h : a ≤ c.attMax) :
    (quieter c a).toNat = min (a.toNat + 1) c.attMax.toNat := by
  unfold quieter
  split <;> bv_omega

theorem louder_range (c : Config) (a : Byte) (lo : c.attMin ≤ a) (hi : a ≤ c.attMax) :
    c.attMin ≤ louder c a ∧ louder c a ≤ c.attMax := by
  have h := louder_toNat c a lo
  rw [BitVec.le_def] at *
  rw [BitVec.le_def]
  omega

theorem quieter_range (c : Config) (a : Byte) (lo : c.attMin ≤ a) (hi : a ≤ c.attMax) :
    c.attMin ≤ quieter c a ∧ quieter c a ≤ c.attMax := by
  have h := quieter_toNat c a hi
  rw [BitVec.le_def] at *
  rw [BitVec.le_def]
  omega

/-! ### Slots of the switch word -/

theorem writeSlot_bit (slot : Slot) (new old : Byte) (i : Nat) (hi : i < 8) :
    (writeSlot slot new old).getLsbD i =
      if (slotMask slot).getLsbD i then new.getLsbD i else old.getLsbD i := by
  simp only [writeSlot, BitVec.getLsbD_or, BitVec.getLsbD_and, BitVec.getLsbD_not, hi, decide_true,
    Bool.true_and]
  cases (slotMask slot).getLsbD i <;> simp

/-- The four scans together replace the whole word. -/
theorem writeSlot_all (new old : Byte) :
    writeSlot .dim new (writeSlot .mono new (writeSlot .output new (writeSlot .input new old))) = new := by
  apply BitVec.eq_of_getLsbD_eq
  intro i hi
  rw [writeSlot_bit _ _ _ _ hi, writeSlot_bit _ _ _ _ hi, writeSlot_bit _ _ _ _ hi,
    writeSlot_bit _ _ _ _ hi]
  interval_cases i <;> simp [slotMask]

/-- Whatever the scanners read, the word keeps the group rule (R13, R134). -/
@[simp] theorem scanWord_legal (x : Selection) : legalSw (scanWord x) = true := by
  obtain ⟨i, o, m, d⟩ := x
  cases i <;> cases o <;> cases m <;> cases d <;> decide

/-- The member that a group's bits show. -/
def pickOf (g : BitVec 3) : GroupPick :=
  if g.getLsbD 2 then .first else if g.getLsbD 1 then .second else if g.getLsbD 0 then .third else .off

/-- Every word that keeps the group rule is left by some scan (R134, D18). -/
theorem scanWord_pickOf (w : Byte) (h : legalSw w = true) :
    scanWord ⟨pickOf (w.extractLsb' 5 3), pickOf (w.extractLsb' 2 3), w.getLsbD 1, w.getLsbD 0⟩ = w := by
  revert w
  decide

/-! ### Dim transform, candidate, divider -/

theorem dimmed_toNat (c : Config) (a : Byte) :
    (dimmed c a).toNat = min (a.toNat + c.dimOffset) c.attMax.toNat := by
  have h := c.attMax.isLt
  simp only [dimmed, BitVec.toNat_ofNat]
  exact Nat.mod_eq_of_lt (by omega)

theorem dimmed_range (c : Config) (a : Byte) : dimmed c a ≤ c.attMax := by
  rw [BitVec.le_def, dimmed_toNat]
  exact min_le_right _ _

/-- Without dim the candidate is the level read (R141). -/
theorem candidate_plain (c : Config) (w a snap : Byte) (h : dimOn w = false) :
    candidate c w a snap = a := by
  simp only [candidate, h]
  split <;> simp_all

theorem candidate_cases (c : Config) (w a snap : Byte) :
    candidate c w a snap = a ∨ (dimOn w = true ∧ candidate c w a snap = dimmed c a) := by
  simp only [candidate]
  split
  · cases dimOn w <;> simp
  · simp_all

theorem candidate_range (c : Config) (w a snap : Byte) (h : a ≤ c.attMax) :
    candidate c w a snap ≤ c.attMax := by
  rcases candidate_cases c w a snap with h' | ⟨-, h'⟩ <;> rw [h']
  · exact h
  · exact dimmed_range c a

/-! ### Successors -/

@[simp] theorem afterWait_ne (due : Bool) : afterWait due ≠ .bus ∧ afterWait due ≠ .shift := by
  cases due <;> simp [afterWait]

@[simp] theorem afterDiv_ne (d : Nat) : afterDiv d ≠ .bus ∧ afterDiv d ≠ .shift := by
  unfold afterDiv
  split <;> simp

@[simp] theorem afterBus_ne (due : Bool) : afterBus due ≠ .bus := by
  cases due <;> simp [afterBus]

theorem afterBus_shift (due : Bool) : afterBus due = .shift ↔ due = true := by
  cases due <;> simp [afterBus]

/-- The dispatch after an evaluation that found `c1` (switch) and `c2` (level) changed. -/
theorem afterEval_changes (c1 c2 : Bool) :
    (afterEval (c1 || c2) c1 = .bus ↔ (c1 || c2) = true) ∧ afterEval (c1 || c2) c1 ≠ .shift := by
  cases c1 <;> cases c2 <;> simp [afterEval]

/-- The divider stays a residue. -/
theorem divNext_lt (n d : Nat) (h : 0 < n) : divNext n d < n := Nat.mod_lt _ h

/-- The divider counts up by one but at its last residue, where it wraps to 0. -/
theorem divNext_eq (n d : Nat) (h : d < n) : divNext n d = if d + 1 = n then 0 else d + 1 := by
  unfold divNext
  split
  · rename_i e
    rw [e, Nat.mod_self]
  · exact Nat.mod_eq_of_lt (by omega)

end Sys2Proof.Machine
end

