-- ==== Sys2Proof/Laws/State.lean ====
section
/-!
SUPPORT. What every shared update leaves in every field of the state. Each theorem is one conjunction
with one clause per field, so simp has one rule per field per update and no later proof unfolds a record
update.
-/

namespace Sys2Proof.Machine

open Sys2Proof

@[simp] theorem raiseScanDue_fields (s : State) :
    (raiseScanDue s).cfg = s.cfg ∧ (raiseScanDue s).att = s.att ∧ (raiseScanDue s).sw = s.sw ∧
    (raiseScanDue s).hist = s.hist ∧ (raiseScanDue s).acc = s.acc ∧
    (raiseScanDue s).scanDue = true ∧ (raiseScanDue s).tmr = s.tmr ∧ (raiseScanDue s).div = s.div ∧
    (raiseScanDue s).snapSw = s.snapSw ∧ (raiseScanDue s).snapAtt = s.snapAtt ∧
    (raiseScanDue s).busDue = s.busDue ∧ (raiseScanDue s).shiftDue = s.shiftDue ∧
    (raiseScanDue s).cand = s.cand ∧ (raiseScanDue s).phase = s.phase ∧
    (raiseScanDue s).encA = s.encA ∧ (raiseScanDue s).encB = s.encB ∧
    (raiseScanDue s).pins = s.pins ∧ (raiseScanDue s).status = s.status ∧
    (raiseScanDue s).out = s.out ∧ (raiseScanDue s).calls = s.calls ∧
    (raiseScanDue s).script = s.script ∧ (raiseScanDue s).drawn = s.drawn := by
  and_intros <;> rfl

@[simp] theorem takeScanDue_fields (s : State) :
    (takeScanDue s).2.cfg = s.cfg ∧ (takeScanDue s).2.att = s.att ∧ (takeScanDue s).2.sw = s.sw ∧
    (takeScanDue s).2.hist = s.hist ∧ (takeScanDue s).2.acc = s.acc ∧
    (takeScanDue s).2.scanDue = false ∧ (takeScanDue s).2.tmr = s.tmr ∧
    (takeScanDue s).2.div = s.div ∧ (takeScanDue s).2.snapSw = s.snapSw ∧
    (takeScanDue s).2.snapAtt = s.snapAtt ∧ (takeScanDue s).2.busDue = s.busDue ∧
    (takeScanDue s).2.shiftDue = s.shiftDue ∧ (takeScanDue s).2.cand = s.cand ∧
    (takeScanDue s).2.phase = s.phase ∧ (takeScanDue s).2.encA = s.encA ∧
    (takeScanDue s).2.encB = s.encB ∧ (takeScanDue s).2.pins = s.pins ∧
    (takeScanDue s).2.status = s.status ∧ (takeScanDue s).2.out = s.out ∧
    (takeScanDue s).2.calls = s.calls ∧ (takeScanDue s).2.script = s.script ∧
    (takeScanDue s).2.drawn = s.drawn := by
  and_intros <;> rfl

@[simp] theorem clearBusDue_fields (s : State) :
    (clearBusDue s).cfg = s.cfg ∧ (clearBusDue s).att = s.att ∧ (clearBusDue s).sw = s.sw ∧
    (clearBusDue s).hist = s.hist ∧ (clearBusDue s).acc = s.acc ∧
    (clearBusDue s).scanDue = s.scanDue ∧ (clearBusDue s).tmr = s.tmr ∧
    (clearBusDue s).div = s.div ∧ (clearBusDue s).snapSw = s.snapSw ∧
    (clearBusDue s).snapAtt = s.snapAtt ∧ (clearBusDue s).busDue = false ∧
    (clearBusDue s).shiftDue = s.shiftDue ∧ (clearBusDue s).cand = s.cand ∧
    (clearBusDue s).phase = s.phase ∧ (clearBusDue s).encA = s.encA ∧
    (clearBusDue s).encB = s.encB ∧ (clearBusDue s).pins = s.pins ∧
    (clearBusDue s).status = s.status ∧ (clearBusDue s).out = s.out ∧
    (clearBusDue s).calls = s.calls ∧ (clearBusDue s).script = s.script ∧
    (clearBusDue s).drawn = s.drawn := by
  and_intros <;> rfl

@[simp] theorem clearShiftDue_fields (s : State) :
    (clearShiftDue s).cfg = s.cfg ∧ (clearShiftDue s).att = s.att ∧ (clearShiftDue s).sw = s.sw ∧
    (clearShiftDue s).hist = s.hist ∧ (clearShiftDue s).acc = s.acc ∧
    (clearShiftDue s).scanDue = s.scanDue ∧ (clearShiftDue s).tmr = s.tmr ∧
    (clearShiftDue s).div = s.div ∧ (clearShiftDue s).snapSw = s.snapSw ∧
    (clearShiftDue s).snapAtt = s.snapAtt ∧ (clearShiftDue s).busDue = s.busDue ∧
    (clearShiftDue s).shiftDue = false ∧ (clearShiftDue s).cand = s.cand ∧
    (clearShiftDue s).phase = s.phase ∧ (clearShiftDue s).encA = s.encA ∧
    (clearShiftDue s).encB = s.encB ∧ (clearShiftDue s).pins = s.pins ∧
    (clearShiftDue s).status = s.status ∧ (clearShiftDue s).out = s.out ∧
    (clearShiftDue s).calls = s.calls ∧ (clearShiftDue s).script = s.script ∧
    (clearShiftDue s).drawn = s.drawn := by
  and_intros <;> rfl

@[simp] theorem enterHandler_fields (s : State) :
    (enterHandler s).cfg = s.cfg ∧ (enterHandler s).att = s.att ∧ (enterHandler s).sw = s.sw ∧
    (enterHandler s).hist = s.hist ∧ (enterHandler s).acc = s.acc ∧
    (enterHandler s).scanDue = s.scanDue ∧ (enterHandler s).tmr = s.tmr ∧
    (enterHandler s).div = s.div ∧ (enterHandler s).snapSw = s.snapSw ∧
    (enterHandler s).snapAtt = s.snapAtt ∧ (enterHandler s).busDue = s.busDue ∧
    (enterHandler s).shiftDue = s.shiftDue ∧ (enterHandler s).cand = s.cand ∧
    (enterHandler s).phase = s.phase ∧ (enterHandler s).encA = s.encA ∧
    (enterHandler s).encB = s.encB ∧ (enterHandler s).pins = s.pins ∧
    (enterHandler s).status = s.status ∧ (enterHandler s).out = s.out ∧
    (enterHandler s).calls = s.calls ∧ (enterHandler s).script = s.script ∧
    (enterHandler s).drawn = s.drawn := by
  and_intros <;> rfl

@[simp] theorem leaveHandler_fields (s : State) :
    (leaveHandler s).cfg = s.cfg ∧ (leaveHandler s).att = s.att ∧ (leaveHandler s).sw = s.sw ∧
    (leaveHandler s).hist = s.hist ∧ (leaveHandler s).acc = s.acc ∧
    (leaveHandler s).scanDue = s.scanDue ∧ (leaveHandler s).tmr = s.tmr ∧
    (leaveHandler s).div = s.div ∧ (leaveHandler s).snapSw = s.snapSw ∧
    (leaveHandler s).snapAtt = s.snapAtt ∧ (leaveHandler s).busDue = s.busDue ∧
    (leaveHandler s).shiftDue = s.shiftDue ∧ (leaveHandler s).cand = s.cand ∧
    (leaveHandler s).phase = s.phase ∧ (leaveHandler s).encA = s.encA ∧
    (leaveHandler s).encB = s.encB ∧ (leaveHandler s).pins = s.pins ∧
    (leaveHandler s).status = s.status ∧ (leaveHandler s).out = s.out ∧
    (leaveHandler s).calls = s.calls ∧ (leaveHandler s).script = s.script ∧
    (leaveHandler s).drawn = s.drawn := by
  and_intros <;> rfl

@[simp] theorem reloadTimer_fields (s : State) :
    (reloadTimer s).cfg = s.cfg ∧ (reloadTimer s).att = s.att ∧ (reloadTimer s).sw = s.sw ∧
    (reloadTimer s).hist = s.hist ∧ (reloadTimer s).acc = s.acc ∧
    (reloadTimer s).scanDue = s.scanDue ∧ (reloadTimer s).tmr = 0 ∧ (reloadTimer s).div = s.div ∧
    (reloadTimer s).snapSw = s.snapSw ∧ (reloadTimer s).snapAtt = s.snapAtt ∧
    (reloadTimer s).busDue = s.busDue ∧ (reloadTimer s).shiftDue = s.shiftDue ∧
    (reloadTimer s).cand = s.cand ∧ (reloadTimer s).phase = s.phase ∧
    (reloadTimer s).encA = s.encA ∧ (reloadTimer s).encB = s.encB ∧ (reloadTimer s).pins = s.pins ∧
    (reloadTimer s).status = s.status ∧ (reloadTimer s).out = s.out ∧
    (reloadTimer s).calls = s.calls ∧ (reloadTimer s).script = s.script ∧
    (reloadTimer s).drawn = s.drawn := by
  and_intros <;> rfl

@[simp] theorem countCycle_fields (s : State) :
    (countCycle s).cfg = s.cfg ∧ (countCycle s).att = s.att ∧ (countCycle s).sw = s.sw ∧
    (countCycle s).hist = s.hist ∧ (countCycle s).acc = s.acc ∧ (countCycle s).scanDue = s.scanDue ∧
    (countCycle s).tmr = s.tmr + 1 ∧ (countCycle s).div = s.div ∧ (countCycle s).snapSw = s.snapSw ∧
    (countCycle s).snapAtt = s.snapAtt ∧ (countCycle s).busDue = s.busDue ∧
    (countCycle s).shiftDue = s.shiftDue ∧ (countCycle s).cand = s.cand ∧
    (countCycle s).phase = s.phase ∧ (countCycle s).encA = s.encA ∧ (countCycle s).encB = s.encB ∧
    (countCycle s).pins = s.pins ∧ (countCycle s).status = s.status ∧ (countCycle s).out = s.out ∧
    (countCycle s).calls = s.calls ∧ (countCycle s).script = s.script ∧
    (countCycle s).drawn = s.drawn := by
  and_intros <;> rfl

@[simp] theorem shiftHist_fields (x : Sample) (s : State) :
    (shiftHist x s).cfg = s.cfg ∧ (shiftHist x s).att = s.att ∧ (shiftHist x s).sw = s.sw ∧
    (shiftHist x s).hist = assemble s.hist x ∧ (shiftHist x s).acc = s.acc ∧
    (shiftHist x s).scanDue = s.scanDue ∧ (shiftHist x s).tmr = s.tmr ∧
    (shiftHist x s).div = s.div ∧ (shiftHist x s).snapSw = s.snapSw ∧
    (shiftHist x s).snapAtt = s.snapAtt ∧ (shiftHist x s).busDue = s.busDue ∧
    (shiftHist x s).shiftDue = s.shiftDue ∧ (shiftHist x s).cand = s.cand ∧
    (shiftHist x s).phase = s.phase ∧ (shiftHist x s).encA = s.encA ∧
    (shiftHist x s).encB = s.encB ∧ (shiftHist x s).pins = s.pins ∧
    (shiftHist x s).status = s.status ∧ (shiftHist x s).out = s.out ∧
    (shiftHist x s).calls = s.calls ∧ (shiftHist x s).script = s.script ∧
    (shiftHist x s).drawn = s.drawn := by
  and_intros <;> rfl

@[simp] theorem setAccAtt_fields (x : Int × Byte) (s : State) :
    (setAccAtt x s).cfg = s.cfg ∧ (setAccAtt x s).att = x.2 ∧ (setAccAtt x s).sw = s.sw ∧
    (setAccAtt x s).hist = s.hist ∧ (setAccAtt x s).acc = x.1 ∧
    (setAccAtt x s).scanDue = s.scanDue ∧ (setAccAtt x s).tmr = s.tmr ∧
    (setAccAtt x s).div = s.div ∧ (setAccAtt x s).snapSw = s.snapSw ∧
    (setAccAtt x s).snapAtt = s.snapAtt ∧ (setAccAtt x s).busDue = s.busDue ∧
    (setAccAtt x s).shiftDue = s.shiftDue ∧ (setAccAtt x s).cand = s.cand ∧
    (setAccAtt x s).phase = s.phase ∧ (setAccAtt x s).encA = s.encA ∧
    (setAccAtt x s).encB = s.encB ∧ (setAccAtt x s).pins = s.pins ∧
    (setAccAtt x s).status = s.status ∧ (setAccAtt x s).out = s.out ∧
    (setAccAtt x s).calls = s.calls ∧ (setAccAtt x s).script = s.script ∧
    (setAccAtt x s).drawn = s.drawn := by
  and_intros <;> rfl

@[simp] theorem setPhase_fields (p : Phase) (s : State) :
    (setPhase p s).cfg = s.cfg ∧ (setPhase p s).att = s.att ∧ (setPhase p s).sw = s.sw ∧
    (setPhase p s).hist = s.hist ∧ (setPhase p s).acc = s.acc ∧ (setPhase p s).scanDue = s.scanDue ∧
    (setPhase p s).tmr = s.tmr ∧ (setPhase p s).div = s.div ∧ (setPhase p s).snapSw = s.snapSw ∧
    (setPhase p s).snapAtt = s.snapAtt ∧ (setPhase p s).busDue = s.busDue ∧
    (setPhase p s).shiftDue = s.shiftDue ∧ (setPhase p s).cand = s.cand ∧ (setPhase p s).phase = p ∧
    (setPhase p s).encA = s.encA ∧ (setPhase p s).encB = s.encB ∧ (setPhase p s).pins = s.pins ∧
    (setPhase p s).status = s.status ∧ (setPhase p s).out = s.out ∧ (setPhase p s).calls = s.calls ∧
    (setPhase p s).script = s.script ∧ (setPhase p s).drawn = s.drawn := by
  and_intros <;> rfl

@[simp] theorem callOut_fields (c : Call) (s : State) :
    (callOut c s).cfg = s.cfg ∧ (callOut c s).att = s.att ∧ (callOut c s).sw = s.sw ∧
    (callOut c s).hist = s.hist ∧ (callOut c s).acc = s.acc ∧ (callOut c s).scanDue = s.scanDue ∧
    (callOut c s).tmr = s.tmr ∧ (callOut c s).div = s.div ∧ (callOut c s).snapSw = s.snapSw ∧
    (callOut c s).snapAtt = s.snapAtt ∧ (callOut c s).busDue = s.busDue ∧
    (callOut c s).shiftDue = s.shiftDue ∧ (callOut c s).cand = s.cand ∧
    (callOut c s).phase = s.phase ∧ (callOut c s).encA = s.encA ∧ (callOut c s).encB = s.encB ∧
    (callOut c s).pins = s.pins ∧ (callOut c s).status = s.status ∧ (callOut c s).out = s.out ∧
    (callOut c s).calls = s.calls ++ [c] ∧ (callOut c s).script = s.script ∧
    (callOut c s).drawn = s.drawn := by
  and_intros <;> rfl

@[simp] theorem scanSlot_fields (slot : Slot) (s : State) :
    (scanSlot slot s).cfg = s.cfg ∧ (scanSlot slot s).att = s.att ∧
    (scanSlot slot s).sw = writeSlot slot (scanWord s.pins) s.sw ∧ (scanSlot slot s).hist = s.hist ∧
    (scanSlot slot s).acc = s.acc ∧ (scanSlot slot s).scanDue = s.scanDue ∧
    (scanSlot slot s).tmr = s.tmr ∧ (scanSlot slot s).div = s.div ∧
    (scanSlot slot s).snapSw = s.snapSw ∧ (scanSlot slot s).snapAtt = s.snapAtt ∧
    (scanSlot slot s).busDue = s.busDue ∧ (scanSlot slot s).shiftDue = s.shiftDue ∧
    (scanSlot slot s).cand = s.cand ∧ (scanSlot slot s).phase = s.phase ∧
    (scanSlot slot s).encA = s.encA ∧ (scanSlot slot s).encB = s.encB ∧
    (scanSlot slot s).pins = s.pins ∧ (scanSlot slot s).status = s.status ∧
    (scanSlot slot s).out = s.out ∧ (scanSlot slot s).calls = s.calls ++ [.scan slot] ∧
    (scanSlot slot s).script = s.script ∧ (scanSlot slot s).drawn = s.drawn := by
  and_intros <;> rfl

@[simp] theorem emit_fields (r : Record) (s : State) :
    (emit r s).cfg = s.cfg ∧ (emit r s).att = s.att ∧ (emit r s).sw = s.sw ∧
    (emit r s).hist = s.hist ∧ (emit r s).acc = s.acc ∧ (emit r s).scanDue = s.scanDue ∧
    (emit r s).tmr = s.tmr ∧ (emit r s).div = s.div ∧ (emit r s).snapSw = s.snapSw ∧
    (emit r s).snapAtt = s.snapAtt ∧ (emit r s).busDue = s.busDue ∧
    (emit r s).shiftDue = s.shiftDue ∧ (emit r s).cand = s.cand ∧ (emit r s).phase = s.phase ∧
    (emit r s).encA = s.encA ∧ (emit r s).encB = s.encB ∧ (emit r s).pins = s.pins ∧
    (emit r s).status = s.status ∧ (emit r s).out = s.out ++ [r] ∧ (emit r s).calls = s.calls ∧
    (emit r s).script = s.script ∧ (emit r s).drawn = s.drawn := by
  and_intros <;> rfl

@[simp] theorem emitBus_fields (b0 b1 : Byte) (s : State) :
    (emitBus b0 b1 s).cfg = s.cfg ∧ (emitBus b0 b1 s).att = s.att ∧ (emitBus b0 b1 s).sw = s.sw ∧
    (emitBus b0 b1 s).hist = s.hist ∧ (emitBus b0 b1 s).acc = s.acc ∧
    (emitBus b0 b1 s).scanDue = s.scanDue ∧ (emitBus b0 b1 s).tmr = s.tmr ∧
    (emitBus b0 b1 s).div = s.div ∧ (emitBus b0 b1 s).snapSw = s.snapSw ∧
    (emitBus b0 b1 s).snapAtt = s.snapAtt ∧ (emitBus b0 b1 s).busDue = s.busDue ∧
    (emitBus b0 b1 s).shiftDue = s.shiftDue ∧ (emitBus b0 b1 s).cand = s.cand ∧
    (emitBus b0 b1 s).phase = s.phase ∧ (emitBus b0 b1 s).encA = s.encA ∧
    (emitBus b0 b1 s).encB = s.encB ∧ (emitBus b0 b1 s).pins = s.pins ∧
    (emitBus b0 b1 s).status = s.status ∧
    (emitBus b0 b1 s).out = s.out ++ [.bus s.cfg.busAddr b0 b1 s.cfg.busLen s.cfg.busFlag] ∧
    (emitBus b0 b1 s).calls = s.calls ∧ (emitBus b0 b1 s).script = s.script ∧
    (emitBus b0 b1 s).drawn = s.drawn := by
  and_intros <;> rfl

@[simp] theorem emitShift_fields (b : Byte) (s : State) :
    (emitShift b s).cfg = s.cfg ∧ (emitShift b s).att = s.att ∧ (emitShift b s).sw = s.sw ∧
    (emitShift b s).hist = s.hist ∧ (emitShift b s).acc = s.acc ∧
    (emitShift b s).scanDue = s.scanDue ∧ (emitShift b s).tmr = s.tmr ∧
    (emitShift b s).div = s.div ∧ (emitShift b s).snapSw = s.snapSw ∧
    (emitShift b s).snapAtt = s.snapAtt ∧ (emitShift b s).busDue = s.busDue ∧
    (emitShift b s).shiftDue = s.shiftDue ∧ (emitShift b s).cand = s.cand ∧
    (emitShift b s).phase = s.phase ∧ (emitShift b s).encA = s.encA ∧
    (emitShift b s).encB = s.encB ∧ (emitShift b s).pins = s.pins ∧
    (emitShift b s).status = s.status ∧ (emitShift b s).out = s.out ++ [.shift b] ∧
    (emitShift b s).calls = s.calls ∧ (emitShift b s).script = s.script ∧
    (emitShift b s).drawn = s.drawn := by
  and_intros <;> rfl

@[simp] theorem countDiv_fields (s : State) :
    (countDiv s).cfg = s.cfg ∧ (countDiv s).att = s.att ∧ (countDiv s).sw = s.sw ∧
    (countDiv s).hist = s.hist ∧ (countDiv s).acc = s.acc ∧ (countDiv s).scanDue = s.scanDue ∧
    (countDiv s).tmr = s.tmr ∧ (countDiv s).div = divNext s.cfg.divN s.div ∧ (countDiv s).snapSw = s.snapSw ∧
    (countDiv s).snapAtt = s.snapAtt ∧ (countDiv s).busDue = s.busDue ∧
    (countDiv s).shiftDue = s.shiftDue ∧ (countDiv s).cand = s.cand ∧ (countDiv s).phase = s.phase ∧
    (countDiv s).encA = s.encA ∧ (countDiv s).encB = s.encB ∧ (countDiv s).pins = s.pins ∧
    (countDiv s).status = s.status ∧ (countDiv s).out = s.out ∧ (countDiv s).calls = s.calls ∧
    (countDiv s).script = s.script ∧ (countDiv s).drawn = s.drawn := by
  and_intros <;> rfl

@[simp] theorem loadCand_fields (b : Byte) (s : State) :
    (loadCand b s).cfg = s.cfg ∧ (loadCand b s).att = s.att ∧ (loadCand b s).sw = s.sw ∧
    (loadCand b s).hist = s.hist ∧ (loadCand b s).acc = s.acc ∧ (loadCand b s).scanDue = s.scanDue ∧
    (loadCand b s).tmr = s.tmr ∧ (loadCand b s).div = s.div ∧ (loadCand b s).snapSw = s.snapSw ∧
    (loadCand b s).snapAtt = s.snapAtt ∧ (loadCand b s).busDue = s.busDue ∧
    (loadCand b s).shiftDue = s.shiftDue ∧ (loadCand b s).cand = b ∧
    (loadCand b s).phase = s.phase ∧ (loadCand b s).encA = s.encA ∧ (loadCand b s).encB = s.encB ∧
    (loadCand b s).pins = s.pins ∧ (loadCand b s).status = s.status ∧ (loadCand b s).out = s.out ∧
    (loadCand b s).calls = s.calls ∧ (loadCand b s).script = s.script ∧
    (loadCand b s).drawn = s.drawn := by
  and_intros <;> rfl

@[simp] theorem dispatchDue_fields (s : State) :
    (dispatchDue s).cfg = s.cfg ∧ (dispatchDue s).att = s.att ∧ (dispatchDue s).sw = s.sw ∧
    (dispatchDue s).hist = s.hist ∧ (dispatchDue s).acc = s.acc ∧
    (dispatchDue s).scanDue = s.scanDue ∧ (dispatchDue s).tmr = s.tmr ∧
    (dispatchDue s).div = s.div ∧ (dispatchDue s).snapSw = s.snapSw ∧
    (dispatchDue s).snapAtt = s.snapAtt ∧ (dispatchDue s).busDue = s.busDue ∧
    (dispatchDue s).shiftDue = s.shiftDue ∧ (dispatchDue s).cand = s.cand ∧
    (dispatchDue s).phase = afterEval s.busDue s.shiftDue ∧ (dispatchDue s).encA = s.encA ∧
    (dispatchDue s).encB = s.encB ∧ (dispatchDue s).pins = s.pins ∧
    (dispatchDue s).status = s.status ∧ (dispatchDue s).out = s.out ∧
    (dispatchDue s).calls = s.calls ∧ (dispatchDue s).script = s.script ∧
    (dispatchDue s).drawn = s.drawn := by
  and_intros <;> rfl

@[simp] theorem schedule_fields (e : Entry) (s : State) :
    (schedule e s).cfg = s.cfg ∧ (schedule e s).att = s.att ∧ (schedule e s).sw = s.sw ∧
    (schedule e s).hist = s.hist ∧ (schedule e s).acc = s.acc ∧ (schedule e s).scanDue = s.scanDue ∧
    (schedule e s).tmr = s.tmr ∧ (schedule e s).div = s.div ∧ (schedule e s).snapSw = s.snapSw ∧
    (schedule e s).snapAtt = s.snapAtt ∧ (schedule e s).busDue = s.busDue ∧
    (schedule e s).shiftDue = s.shiftDue ∧ (schedule e s).cand = s.cand ∧
    (schedule e s).phase = s.phase ∧ (schedule e s).encA = s.encA ∧ (schedule e s).encB = s.encB ∧
    (schedule e s).pins = s.pins ∧ (schedule e s).status = s.status ∧ (schedule e s).out = s.out ∧
    (schedule e s).calls = s.calls ∧ (schedule e s).script = e :: s.script ∧
    (schedule e s).drawn = s.drawn := by
  and_intros <;> rfl

@[simp] theorem aimHist_fields (c : Code) (s : State) :
    (aimHist c s).cfg = s.cfg ∧ (aimHist c s).att = s.att ∧ (aimHist c s).sw = s.sw ∧
    (aimHist c s).hist = assemble s.hist (prevOf c) ∧ (aimHist c s).acc = s.acc ∧
    (aimHist c s).scanDue = s.scanDue ∧ (aimHist c s).tmr = s.tmr ∧ (aimHist c s).div = s.div ∧
    (aimHist c s).snapSw = s.snapSw ∧ (aimHist c s).snapAtt = s.snapAtt ∧
    (aimHist c s).busDue = s.busDue ∧ (aimHist c s).shiftDue = s.shiftDue ∧
    (aimHist c s).cand = s.cand ∧ (aimHist c s).phase = s.phase ∧ (aimHist c s).encA = s.encA ∧
    (aimHist c s).encB = s.encB ∧ (aimHist c s).pins = s.pins ∧ (aimHist c s).status = s.status ∧
    (aimHist c s).out = s.out ∧ (aimHist c s).calls = s.calls ∧ (aimHist c s).script = s.script ∧
    (aimHist c s).drawn = s.drawn := by
  and_intros <;> rfl

@[simp] theorem markSwitch_fields (s : State) :
    (markSwitch s).cfg = s.cfg ∧ (markSwitch s).att = s.att ∧ (markSwitch s).sw = s.sw ∧
    (markSwitch s).hist = s.hist ∧ (markSwitch s).acc = s.acc ∧ (markSwitch s).scanDue = s.scanDue ∧
    (markSwitch s).tmr = s.tmr ∧ (markSwitch s).div = s.div ∧ (markSwitch s).snapSw = s.sw ∧
    (markSwitch s).snapAtt = s.snapAtt ∧ (markSwitch s).busDue = (s.busDue || s.sw != s.snapSw) ∧
    (markSwitch s).shiftDue = (s.shiftDue || s.sw != s.snapSw) ∧ (markSwitch s).cand = s.cand ∧
    (markSwitch s).phase = s.phase ∧ (markSwitch s).encA = s.encA ∧ (markSwitch s).encB = s.encB ∧
    (markSwitch s).pins = s.pins ∧ (markSwitch s).status = s.status ∧ (markSwitch s).out = s.out ∧
    (markSwitch s).calls = s.calls ∧ (markSwitch s).script = s.script ∧
    (markSwitch s).drawn = s.drawn := by
  unfold markSwitch
  split <;> simp_all

@[simp] theorem markLevel_fields (s : State) :
    (markLevel s).cfg = s.cfg ∧ (markLevel s).att = s.att ∧ (markLevel s).sw = s.sw ∧
    (markLevel s).hist = s.hist ∧ (markLevel s).acc = s.acc ∧ (markLevel s).scanDue = s.scanDue ∧
    (markLevel s).tmr = s.tmr ∧ (markLevel s).div = s.div ∧ (markLevel s).snapSw = s.snapSw ∧
    (markLevel s).snapAtt = s.att ∧ (markLevel s).busDue = (s.busDue || s.att != s.snapAtt) ∧
    (markLevel s).shiftDue = s.shiftDue ∧ (markLevel s).cand = s.cand ∧
    (markLevel s).phase = s.phase ∧ (markLevel s).encA = s.encA ∧ (markLevel s).encB = s.encB ∧
    (markLevel s).pins = s.pins ∧ (markLevel s).status = s.status ∧ (markLevel s).out = s.out ∧
    (markLevel s).calls = s.calls ∧ (markLevel s).script = s.script ∧
    (markLevel s).drawn = s.drawn := by
  unfold markLevel
  split <;> simp_all

@[simp] theorem takeScanDue_value (s : State) : (takeScanDue s).1 = s.scanDue := rfl

end Sys2Proof.Machine
end

