-- ==== Sys2Proof/Laws/Exec.lean ====
section
/-!
SUPPORT. One equation per meaning, in terms of the state's fields, so that later proofs need not unfold
the shared operations.
-/

namespace Sys2Proof.Machine

open Sys2Proof

/-- The handler writes `HIST`, `ACC` and `ATT` and nothing else (spec R90, R119). -/
theorem quadrature_eq (c : Code) (s : State) :
    quadrature c s = { s with
      hist := assemble s.hist (curOf c)
      acc := (hysteresis s.cfg (s.acc + delta s.cfg.qtab c) s.att).1
      att := (hysteresis s.cfg (s.acc + delta s.cfg.qtab c) s.att).2 } := rfl

/-- Every row of the delta table runs the handler with its own code. -/
theorem exec_qd {c : Code} {i : Instr} (h : (c, i) ∈ qdRows) (s : State) :
    exec i s = .next (quadrature c s) := by
  simp only [qdRows, List.cons_append, List.nil_append, List.mem_cons, Prod.mk.injEq,
    List.not_mem_nil, or_false] at h
  rcases h with h | h | h | h | h | h | h | h | h | h | h | h | h | h | h | h <;>
    (obtain ⟨rfl, rfl⟩ := h; rfl)

/-- `QSTEP.UP` writes `ACC` and `ATT` when it is selected, and nothing otherwise. -/
theorem detentUp_eq (c : Code) (s : State) :
    detentUp c s =
      if s.acc + delta s.cfg.qtab c > (s.cfg.accStep : Int) - 1
      then { s with acc := 0, att := louder s.cfg s.att } else s := rfl

/-- `QSTEP.DOWN` writes `ACC` and `ATT` when it is selected, and nothing otherwise. -/
theorem detentDown_eq (c : Code) (s : State) :
    detentDown c s =
      if s.acc + delta s.cfg.qtab c < -((s.cfg.accStep : Int) - 1)
      then { s with acc := 0, att := quieter s.cfg s.att } else s := rfl

/-- The five calls leave the scanners' word in `SW`. -/
theorem scanAll_eq (s : State) :
    scanAll s = { s with
      sw := scanWord s.pins
      calls := s.calls ++ [.debounceTick, .scan .input, .scan .output, .scan .mono, .scan .dim] } := by
  have h := writeSlot_all (scanWord s.pins) s.sw
  simp only [scanAll, scanSlot, callOut, h, List.append_assoc, List.cons_append, List.nil_append]

/-- Both marks and both snapshot fields after steps 4 and 5. -/
theorem marks_eq (s : State) :
    markLevel (markSwitch s) = { s with
      shiftDue := s.shiftDue || s.sw != s.snapSw
      busDue := (s.busDue || s.sw != s.snapSw) || s.att != s.snapAtt
      snapSw := s.sw
      snapAtt := s.att } := by
  cases s
  simp only [markLevel, markSwitch]
  split <;> split <;> simp_all

/-- One evaluation. -/
theorem execSlEval_eq (s : State) :
    execSlEval s = .next { s with
      shiftDue := s.shiftDue || s.sw != s.snapSw
      busDue := (s.busDue || s.sw != s.snapSw) || s.att != s.snapAtt
      snapSw := s.sw
      snapAtt := s.att
      cand := candidate s.cfg s.sw s.att s.snapAtt
      phase := afterEval ((s.busDue || s.sw != s.snapSw) || s.att != s.snapAtt)
        (s.shiftDue || s.sw != s.snapSw) } := by
  rw [execSlEval, marks_eq]
  rfl

end Sys2Proof.Machine
end

