-- ==== Sys2Proof/Laws/PerInstr.lean ====
section
/-!
SUPPORT. Statements made per instruction. Family `EncodedLength`: an operation's word has exactly the
number of bytes of its format, two for a bus packet and one for every other (spec R60, R66).
-/

namespace Sys2Proof.Laws

open Sys2Proof

/-- The encoder writes as many bytes as the format has. -/
def EncodedLength.Statement (i : Instr) : Prop :=
  (encode i).2.length = if (encode i).1 = .busPkt then 2 else 1

theorem EncodedLength.qd0000 : EncodedLength.Statement .qd0000 := rfl
theorem EncodedLength.qd0001 : EncodedLength.Statement .qd0001 := rfl
theorem EncodedLength.qd0010 : EncodedLength.Statement .qd0010 := rfl
theorem EncodedLength.qd0011 : EncodedLength.Statement .qd0011 := rfl
theorem EncodedLength.qd0100 : EncodedLength.Statement .qd0100 := rfl
theorem EncodedLength.qd0101 : EncodedLength.Statement .qd0101 := rfl
theorem EncodedLength.qd0110 : EncodedLength.Statement .qd0110 := rfl
theorem EncodedLength.qd0111 : EncodedLength.Statement .qd0111 := rfl
theorem EncodedLength.qd1000 : EncodedLength.Statement .qd1000 := rfl
theorem EncodedLength.qd1001 : EncodedLength.Statement .qd1001 := rfl
theorem EncodedLength.qd1010 : EncodedLength.Statement .qd1010 := rfl
theorem EncodedLength.qd1011 : EncodedLength.Statement .qd1011 := rfl
theorem EncodedLength.qd1100 : EncodedLength.Statement .qd1100 := rfl
theorem EncodedLength.qd1101 : EncodedLength.Statement .qd1101 := rfl
theorem EncodedLength.qd1110 : EncodedLength.Statement .qd1110 := rfl
theorem EncodedLength.qd1111 : EncodedLength.Statement .qd1111 := rfl
theorem EncodedLength.qstepUp (c : Code) : EncodedLength.Statement (.qstepUp c) := rfl
theorem EncodedLength.qstepDown (c : Code) : EncodedLength.Statement (.qstepDown c) := rfl
theorem EncodedLength.tick : EncodedLength.Statement .tick := rfl
theorem EncodedLength.slWait : EncodedLength.Statement .slWait := rfl
theorem EncodedLength.slScan : EncodedLength.Statement .slScan := rfl
theorem EncodedLength.slDiv : EncodedLength.Statement .slDiv := rfl
theorem EncodedLength.slEval : EncodedLength.Statement .slEval := rfl
theorem EncodedLength.slBus : EncodedLength.Statement .slBus := rfl
theorem EncodedLength.slShift : EncodedLength.Statement .slShift := rfl
theorem EncodedLength.bus (b0 b1 : Byte) : EncodedLength.Statement (.bus b0 b1) := rfl
theorem EncodedLength.shift (b : Byte) : EncodedLength.Statement (.shift b) := rfl

end Sys2Proof.Laws
end

