-- ==== Sys2Proof/Laws/Step.lean ====
section
/-!
SUPPORT. What a step can do: the word each move selects decodes to its row of the operation table, and
one inversion lemma for a step of a state whose script holds moves only.
-/

namespace Sys2Proof.Machine

open Sys2Proof

theorem decode_qhist {c : Code} {i : Instr} (h : (c, i) ∈ qdRows) :
    decode .qhist [c.setWidth 8] = .ok i := by
  simp only [qdRows, List.cons_append, List.nil_append, List.mem_cons, Prod.mk.injEq,
    List.not_mem_nil, or_false] at h
  rcases h with h | h | h | h | h | h | h | h | h | h | h | h | h | h | h | h <;>
    (obtain ⟨rfl, rfl⟩ := h; decide)

theorem exists_qdRow (c : Code) : ∃ i, (c, i) ∈ qdRows := by
  have h : ∀ c : Code, (qdRows.lookup c).isSome = true ∧
      ∀ i ∈ qdRows.lookup c, (c, i) ∈ qdRows := by decide
  obtain ⟨i, hi⟩ := Option.isSome_iff_exists.mp (h c).1
  exact ⟨i, (h c).2 i hi⟩

theorem decode_phase {p : Phase} {i : Instr} (h : (phaseCode p, i) ∈ phaseRows) :
    decode .phase [(phaseCode p).setWidth 8] = .ok i := by
  cases p <;> simp [phaseRows, phaseCode] at h <;> subst h <;> decide

/-- The phase action of each phase. -/
theorem phaseRow_cases {p : Phase} {i : Instr} (h : (phaseCode p, i) ∈ phaseRows) :
    (p = .wait ∧ i = .slWait) ∨ (p = .scan ∧ i = .slScan) ∨ (p = .div ∧ i = .slDiv) ∨
      (p = .eval ∧ i = .slEval) ∨ (p = .bus ∧ i = .slBus) ∨ (p = .shift ∧ i = .slShift) := by
  cases p <;> simp [phaseRows, phaseCode] at h <;> subst h <;> simp

theorem exists_phaseRow (p : Phase) : ∃ i, (phaseCode p, i) ∈ phaseRows := by
  cases p <;> simp [phaseRows, phaseCode]

theorem fetch_env {s : State} {e : EnvEvent} {rest : List Entry} (h : s.script = .env e :: rest) :
    fetch s = (selected e (present e { s with script := rest }),
      present e { s with script := rest }) := by
  simp only [fetch, takeEntry, h]

theorem fetch_word {s : State} {f : OpFormat} {bs : List Byte} {rest : List Entry}
    (h : s.script = .word f bs :: rest) : fetch s = (some (f, bs), { s with script := rest }) := by
  simp only [fetch, takeEntry, h]

theorem fetch_free {s : State} (h : s.script = []) :
    fetch s = (selected (Config.environment s.drawn)
        (present (Config.environment s.drawn) { s with drawn := s.drawn + 1 }),
      present (Config.environment s.drawn) { s with drawn := s.drawn + 1 }) := by
  simp only [fetch, takeEntry, h]

/-- The state a move acts on: nothing but the model's own fields has changed. -/
theorem fetch_moves {s : State} (h : OnlyMoves s) :
    ∃ e s1, fetch s = (selected e (present e s1), present e s1) ∧ OnlyMoves s1 ∧
      s1 = { s with script := s1.script, drawn := s1.drawn } := by
  cases hs : s.script with
  | nil => exact ⟨_, _, fetch_free hs, by simp [OnlyMoves, hs], by simp⟩
  | cons en rest =>
    cases en with
    | env e =>
      refine ⟨e, _, fetch_env hs, fun x hx => h x ?_, by simp⟩
      rw [hs]
      exact List.mem_cons_of_mem _ hx
    | word f bs => exact absurd (h (.word f bs) (by simp [hs])) (by simp [Entry.isMove])

/-- The operation, if any, that a move runs in a state that already shows its inputs. -/
theorem selected_cases (e : EnvEvent) (t : State) :
    (selected e t = none ∧ e = .clock) ∨
    (selected e t = some (.strobe, [1]) ∧ (e = .tick ∨ e = .clock)) ∨
    (∃ a b, e = .qedge a b ∧
      selected e t = some (.qhist, [(assemble t.hist (sample t)).setWidth 8])) ∨
    (∃ w st, e = .loop w st ∧ selected e t = some (.phase, [(phaseCode t.phase).setWidth 8])) := by
  cases e with
  | tick => simp [selected]
  | clock => by_cases h : t.cfg.tickPeriod ≤ t.tmr <;> simp [selected, h]
  | qedge a b => simp [selected]
  | loop w st => simp [selected]

/-- What a step of a state with moves only can be: the next state is a counted cycle, or the result of
one expiry, one handler invocation or one phase action. -/
theorem step_moves_cases {s : State} (h : OnlyMoves s) :
    ∃ e s1, OnlyMoves s1 ∧ s1 = { s with script := s1.script, drawn := s1.drawn } ∧
      ((e = .clock ∧ step s = .next (present e s1)) ∨
       ((e = .tick ∨ e = .clock) ∧ step s = exec .tick (present e s1)) ∨
       (∃ a b c i, e = .qedge a b ∧ (c, i) ∈ qdRows ∧ step s = exec i (present e s1)) ∨
       (∃ w st i, e = .loop w st ∧ (phaseCode s.phase, i) ∈ phaseRows ∧
         step s = exec i (present e s1))) := by
  obtain ⟨e, s1, hf, hm, hs⟩ := fetch_moves h
  refine ⟨e, s1, hm, hs, ?_⟩
  rcases selected_cases e (present e s1) with ⟨h1, h2⟩ | ⟨h1, h2⟩ | ⟨a, b, rfl, h1⟩ | ⟨w, st, rfl, h1⟩
  · exact .inl ⟨h2, by simp only [step, hf, h1]⟩
  · refine .inr (.inl ⟨h2, ?_⟩)
    simp only [step, hf, h1]
    rfl
  · obtain ⟨i, hi⟩ := exists_qdRow (assemble (present (.qedge a b) s1).hist
      (sample (present (.qedge a b) s1)))
    refine .inr (.inr (.inl ⟨a, b, _, i, rfl, hi, ?_⟩))
    simp only [step, hf, h1, decode_qhist hi]
  · obtain ⟨i, hi⟩ := exists_phaseRow (present (.loop w st) s1).phase
    have hp : (present (.loop w st) s1).phase = s.phase := by rw [hs]; rfl
    refine .inr (.inr (.inr ⟨w, st, i, rfl, hp ▸ hi, ?_⟩))
    simp only [step, hf, h1, decode_phase hi]

end Sys2Proof.Machine
end

