-- ==== Sys2Proof/Tests/Slice0.lean ====
section
/-!
SUPPORT. Tests. Expected results come from the spec: the worked examples of its rules and the vectors of
95_test_vectors.md, named in each test's comment. Witnesses show that the hypotheses of each statement can
be met together.
-/

namespace Sys2Proof.Tests

open Sys2Proof Sys2Proof.Machine

/-- A core after boot with chosen values of the OPEN parameters, so that tests compute. -/
def base : State :=
  State.resetWith { Config.standard with tickPeriod := 3, busAddr := 9, busFlag := 1 }

/-- One field of the next state, none if there is no next state. -/
def after {α : Type} (o : Host.Outcome State Fault Refusal) (f : State → α) : Option α :=
  match o with
  | .next t => some (f t)
  | _ => none

/-- What the decoder's tests look at: `HIST`, `ACC`, `ATT`. -/
def decoderOf (s : State) : Nat × Int × Nat := (s.hist.toNat, s.acc, s.att.toNat)

/-- A scan that finds no switch active. -/
def released : Selection := ⟨.off, .off, false, false⟩

/-- The decoder's registers set for a test. -/
def decoder (hist : Code) (acc : Int) (att : Byte) : State :=
  { base with hist := hist, acc := acc, att := att }

/-- The evaluation's inputs set for a test. -/
def evaluating (sw snapSw att snapAtt : Byte) : State :=
  { base with phase := .eval, sw := sw, snapSw := snapSw, att := att, snapAtt := snapAtt }

/-! ### Well-formedness -/

/-- Byte 0 of a packet above 127 (R67). -/
theorem test_bus_byte0_128_ill_formed : WellFormed (.bus 128 0x90) = false := by decide

theorem test_bus_byte0_127_well_formed : WellFormed (.bus 127 0xFF) = true := by decide

/-! ### Decoding: words written out from R63, R66, R68 to R70 -/

theorem test_decode_qhist : ([0, 1, 2, 3, 4, 5, 6, 7] : List Byte).map (fun b => decode .qhist [b]) =
    [.ok .qd0000, .ok .qd0001, .ok .qd0010, .ok .qd0011, .ok .qd0100, .ok .qd0101, .ok .qd0110,
     .ok .qd0111] := by decide

theorem test_decode_qhist_high :
    ([8, 9, 10, 11, 12, 13, 14, 15] : List Byte).map (fun b => decode .qhist [b]) =
    [.ok .qd1000, .ok .qd1001, .ok .qd1010, .ok .qd1011, .ok .qd1100, .ok .qd1101, .ok .qd1110,
     .ok .qd1111] := by decide

theorem test_decode_phase :
    ([0b000, 0b001, 0b010, 0b011, 0b100, 0b101] : List Byte).map (fun b => decode .phase [b]) =
    [.ok .slWait, .ok .slScan, .ok .slDiv, .ok .slEval, .ok .slBus, .ok .slShift] := by decide

theorem test_decode_phase_unused : decode .phase [0b110] = .error .unusedPhase ∧
    decode .phase [0b111] = .error .unusedPhase := by decide

theorem test_decode_strobe : decode .strobe [1] = .ok .tick ∧ decode .strobe [0] = .error .noStrobe := by
  decide

theorem test_decode_detents : decode .qhistUp [0b0100] = .ok (.qstepUp 0b0100) ∧
    decode .qhistDown [0b1000] = .ok (.qstepDown 0b1000) := by decide

/-- Program P1: the packet `7F 50` and the shift byte `50`. -/
theorem test_decode_outputs : decode .busPkt [0x7F, 0x50] = .ok (.bus 127 0x50) ∧
    decode .busPkt [0x80, 0x50] = .error .busByteRange ∧
    decode .shiftByte [0x50] = .ok (.shift 0x50) := by decide

theorem test_decode_too_wide : decode .qhist [0x10] = .error .codeTooWide ∧
    decode .qhist [] = .error .wrongLength := by decide

theorem test_decodeTableWord : decodeTableWord 8 0b1101 = some .qd1101 ∧
    decodeTableWord 16 0x7F50 = some (.bus 127 0x50) ∧ decodeTableWord 16 0x8050 = none ∧
    decodeTableWord 8 0x50 = some (.shift 0x50) ∧ decodeTableWord 3 0b100 = some .slBus ∧
    decodeTableWord 1 1 = some .tick := by decide

/-! ### The table codes: the examples of R96 to R111 -/

theorem test_qd0000 :
    after (exec .qd0000 (decoder 0b0000 (2) 64)) decoderOf = some (0, 2, 64) := by decide

theorem test_qd0001 :
    after (exec .qd0001 (decoder 0b0000 (0) 64)) decoderOf = some (1, -1, 64) := by decide

theorem test_qd0010 :
    after (exec .qd0010 (decoder 0b0000 (0) 64)) decoderOf = some (2, 1, 64) := by decide

theorem test_qd0011 :
    after (exec .qd0011 (decoder 0b0000 (1) 64)) decoderOf = some (3, 1, 64) := by decide

theorem test_qd0100 :
    after (exec .qd0100 (decoder 0b1101 (3) 64)) decoderOf = some (4, 0, 63) := by decide

theorem test_qd0101 :
    after (exec .qd0101 (decoder 0b1101 (3) 64)) decoderOf = some (5, 3, 64) := by decide

theorem test_qd0110 :
    after (exec .qd0110 (decoder 0b0001 (-1) 64)) decoderOf = some (6, -1, 64) := by decide

theorem test_qd0111 :
    after (exec .qd0111 (decoder 0b0001 (-1) 64)) decoderOf = some (7, -2, 64) := by decide

theorem test_qd1000 :
    after (exec .qd1000 (decoder 0b1110 (-3) 126)) decoderOf = some (8, 0, 127) := by decide

theorem test_qd1001 :
    after (exec .qd1001 (decoder 0b0010 (1) 64)) decoderOf = some (9, 1, 64) := by decide

theorem test_qd1010 :
    after (exec .qd1010 (decoder 0b0010 (1) 64)) decoderOf = some (10, 1, 64) := by decide

theorem test_qd1011 :
    after (exec .qd1011 (decoder 0b0010 (1) 64)) decoderOf = some (11, 2, 64) := by decide

theorem test_qd1100 :
    after (exec .qd1100 (decoder 0b0011 (0) 64)) decoderOf = some (12, 0, 64) := by decide

theorem test_qd1101 :
    after (exec .qd1101 (decoder 0b1011 (2) 64)) decoderOf = some (13, 3, 64) := by decide

theorem test_qd1110 :
    after (exec .qd1110 (decoder 0b0111 (-2) 64)) decoderOf = some (14, -3, 64) := by decide

theorem test_qd1111 :
    after (exec .qd1111 (decoder 0b1011 (2) 64)) decoderOf = some (15, 2, 64) := by decide

/-! ### The step outcomes: the examples of R112, R113, vectors V-Q3, V-Q4, V-Q15 -/

theorem test_qstepUp : after (exec (.qstepUp 0b0100) (decoder 0b0100 3 127)) decoderOf =
    some (4, 0, 126) := by decide

theorem test_qstepUp_floor : after (exec (.qstepUp 0b0100) (decoder 0b0100 3 0)) decoderOf =
    some (4, 0, 0) := by decide

theorem test_qstepDown : after (exec (.qstepDown 0b1000) (decoder 0b1000 (-3) 0)) decoderOf =
    some (8, 0, 1) := by decide

theorem test_qstepDown_ceiling : after (exec (.qstepDown 0b1000) (decoder 0b1000 (-3) 127)) decoderOf =
    some (8, 0, 127) := by decide

/-- V-Q4: the handler resets the accumulator although the level is held. -/
theorem test_ceiling_clears_acc : after (exec .qd1000 (decoder 0b1110 (-3) 127)) decoderOf =
    some (8, 0, 127) := by decide

/-! ### The timer: vectors V-T1, V-T2 -/

theorem test_tick : after (exec .tick base) (fun t => (t.scanDue, t.phase)) = some (true, .wait) := by
  decide

theorem test_tick_dropped :
    after (exec .tick { base with scanDue := true, phase := .scan }) (fun t => (t.scanDue, t.phase)) =
      some (true, .scan) := by decide

/-! ### ScanLoop: vectors V-W1, V-W2, V-D1, V-D3, V-E2, V-E6, V-E13, V-E15 -/

theorem test_slWait_polls : after (exec .slWait base) (fun t => (t.scanDue, t.phase)) =
    some (false, .wait) := by decide

theorem test_slWait_takes : after (exec .slWait { base with scanDue := true })
    (fun t => (t.scanDue, t.phase)) = some (false, .scan) := by decide

/-- The worked example of R133: input 2 pressed. -/
theorem test_slScan : after (exec .slScan { base with phase := .scan, pins := ⟨.second, .first, false, false⟩ })
    (fun t => (t.sw, t.phase)) = some (0x50, .div) := by decide

theorem test_slScan_calls : after (exec .slScan { base with phase := .scan }) State.calls =
    some [.debounceInit, .debounceTick, .scan .input, .scan .output, .scan .mono, .scan .dim] := by
  decide

theorem test_slDiv_counts : after (exec .slDiv { base with phase := .div })
    (fun t => (t.div, t.phase)) = some (1, .wait) := by decide

theorem test_slDiv_wraps : after (exec .slDiv { base with phase := .div, div := 15 })
    (fun t => (t.div, t.phase)) = some (0, .eval) := by decide

/-- V-E6: dim on alone sends the raw level. -/
theorem test_slEval_dim_alone : after (exec .slEval (evaluating 0x91 0x90 50 50))
    (fun t => (t.snapSw, t.snapAtt, t.cand, t.busDue, t.shiftDue)) =
      some (0x91, 50, 50, true, true) := by decide

/-- V-E13: 159 is clamped, no byte overflow; a level change marks the bus only. -/
theorem test_slEval_dim_clamped : after (exec .slEval (evaluating 0x91 0x91 127 126))
    (fun t => (t.snapAtt, t.cand, t.busDue, t.shiftDue, t.phase)) =
      some (127, 127, true, false, .bus) := by decide

/-- V-E5 of the source's property S6. -/
theorem test_packet_dimmed : dimmed base.cfg 50 = 82 ∧ dimmed base.cfg 100 = 127 := by decide

/-- The worked example of R162. -/
theorem test_slBus : after (exec .slBus { base with
      phase := .bus, cand := 127, sw := 0x50, busDue := true, shiftDue := true })
    (fun t => (t.out, t.busDue, t.phase)) = some ([.bus 9 127 0x50 2 1], false, .shift) := by decide

theorem test_slBus_level_only : after (exec .slBus { base with phase := .bus, busDue := true })
    State.phase = some .wait := by decide

/-- The worked example of R164. -/
theorem test_slShift : after (exec .slShift { base with phase := .shift, sw := 0x50, shiftDue := true })
    (fun t => (t.out, t.shiftDue, t.phase)) = some ([.shift 0x50], false, .wait) := by decide

theorem test_bus : after (exec (.bus 127 0x50) base) State.out = some [.bus 9 127 0x50 2 1] := by decide

theorem test_shift : after (exec (.shift 0x50) base) State.out = some [.shift 0x50] := by decide

/-! ### Steps -/

/-- The worked example of R90, through the input lines: the sample 00 after `HIST = 1101`. -/
theorem test_step_edge : after (step { decoder 0b1101 3 5 with script := [.env (.qedge false false)] })
    decoderOf = some (4, 0, 4) := by decide

/-- V-E15: a word that breaks exclusivity is passed through. -/
theorem test_step_passes_any_word : after (step { evaluating 0xD0 0x90 127 127 with
      script := [.env (.loop released 0)] })
    (fun t => (t.snapSw, t.phase)) = some (0xD0, .bus) := by decide

/-- R82: the third of three cycles ends the period. -/
theorem test_step_clock_expires : after (step { base with tmr := 2, script := [.env .clock] })
    (fun t => (t.scanDue, t.tmr)) = some (true, 0) := by decide

theorem test_fetchWord_qd : after (step (base.withFetchWord 8 0b1101)) decoderOf = some (13, 1, 127) := by
  decide

theorem test_fetchWord_bus : after (step (base.withFetchWord 16 0x7F50)) State.out =
    some [.bus 9 127 0x50 2 1] := by decide

/-- R12: the members of a group from the highest bit down, mono and dim in bits 1 and 0. -/
theorem test_scanWord : scanWord ⟨.first, .second, true, false⟩ = 0b10001010 ∧
    scanWord ⟨.third, .third, false, true⟩ = 0b00100101 ∧ scanWord released = 0 := by decide

/-- R3: another `ACC_STEP` and `DIV_N` change the rules that quote 3 and 16. -/
theorem test_parameters : after (exec .qd0010 { decoder 0b0000 1 64 with
      cfg := { base.cfg with accStep := 2 } }) decoderOf = some (2, 0, 63) ∧
    after (exec .slDiv { base with div := 15, cfg := { base.cfg with divN := 20 } }) State.div =
      some 16 := by decide

/-- R71: of the 256 switch words 64 keep both groups (4 by 4 by 2 by 2), not 128 (log 21). -/
theorem test_legal_words : ((List.range 256).filter fun n => legalSw (BitVec.ofNat 8 n)).length = 64 := by
  decide

/-! ### Witnesses: the hypotheses of each statement can be met together -/

/-- A clean forward detent from the resting sample 00 (`FWD` of R72). -/
def forwardDetent : List (Bool × Bool) := [(true, false), (true, true), (false, true), (false, false)]

/-- A clean reverse detent (`REV` of R72). -/
def reverseDetent : List (Bool × Bool) := [(false, true), (true, true), (true, false), (false, false)]

theorem witness_EncodeOfDecodeIsTheWord : decode .busPkt [127, 0xFF] = .ok (.bus 127 0xFF) := by decide

theorem witness_LegalAndIllegalCodes : 127 < (128 : Byte).toNat := by decide

theorem witness_StepRuns_tick : { base with script := [.env .tick] }.script = .env .tick :: [] := rfl

theorem witness_StepRuns_edge :
    assemble base.hist (sampleOf base.cfg.sampleOrder true true) = 0b0011 ∧
      ((0b0011 : Code), Instr.qd0011) ∈ qdRows := by decide

theorem witness_StepRuns_loop : (phaseCode base.phase, Instr.slWait) ∈ phaseRows ∧
    (phaseCode .shift, Instr.slShift) ∈ phaseRows := by decide

theorem witness_StepRuns_word : decode .shiftByte [0] = .ok (.shift 0) ∧ base.script = [] := by decide

theorem witness_ClockCycles :
    { base with tmr := 1 }.tmr + 1 < base.cfg.tickPeriod ∧
      base.cfg.tickPeriod ≤ { base with tmr := 2 }.tmr + 1 := by decide

theorem witness_PlacedTableWord : decodeTableWord 8 15 = some .qd1111 ∧
    decodeTableWord 8 16 = some (.shift 16) ∧ decodeTableWord 16 0x7FFF = some (.bus 127 0xFF) := by
  decide

theorem witness_OnlyTAndMinusT : (∀ c, isNoop c = true ∨ isInvalid c = true → delta .minusT c = 0) ∧
    (∀ c ∈ ringT, delta .minusT c = -1) ∧ ∀ c ∈ ringR, delta .minusT c = - -1 := by decide

theorem witness_ExchangedLines :
    ∃ s t : State, s.script = [.env (.qedge true false)] ∧ step s = .next t :=
  ⟨{ base with script := [.env (.qedge true false)] }, _, rfl, rfl⟩

theorem witness_ZeroDeltaCodes : -4 < (decoder 0b0000 (-3) 0).acc ∧ (decoder 0b0000 3 0).acc < 4 ∧
    curOf (decoder 0b0000 3 0).hist = prevOf 0b0000 ∧ curOf (decoder 0b0000 3 0).hist = prevOf 0b0011 := by
  decide

theorem witness_CountingCodes : base.cfg.qtab = .plusT ∧ (decoder 0 3 0).acc = 3 ∧
    (decoder 0 (-3) 0).acc = -3 ∧ (mirror base).cfg.qtab = .minusT ∧ base.cfg.accStep = 4 ∧
    base.cfg.attMin ≤ (decoder 0 3 0).att ∧ (decoder 0 (-3) 127).att ≤ base.cfg.attMax := by decide

theorem witness_Detents :
    (decoder 0 3 0).acc + delta base.cfg.qtab 0b0100 > 3 ∧
    (decoder 0 (-3) 0).acc + delta base.cfg.qtab 0b1000 < -3 ∧
    base.cfg.attMin ≤ (decoder 0 3 0).att ∧ (decoder 0 (-3) 127).att ≤ base.cfg.attMax ∧
    (decoder 0 3 0).acc + delta base.cfg.qtab 0b0000 ≤ 3 ∧
    -3 ≤ (decoder 0 (-3) 0).acc + delta base.cfg.qtab 0b0000 := by decide

theorem witness_HandlerIsShift : ((0b0100 : Code), Instr.qd0100) ∈ qdRows ∧
    ((0b1000 : Code), Instr.qd1000) ∈ qdRows ∧ ((0b0000 : Code), Instr.qd0000) ∈ qdRows ∧
    0 < base.cfg.accStep := by decide

theorem witness_HandlerWritesOnly : ∃ t u v : State, exec .qd0100 (decoder 0 3 0) = .next t ∧
    exec (.qstepUp 0b0100) (decoder 0 3 0) = .next u ∧
    exec (.qstepDown 0b1000) (decoder 0 (-3) 0) = .next v := ⟨_, _, _, rfl, rfl, rfl⟩

theorem witness_HandlerKeepsRanges : ∃ t : State, base.cfg.attMin ≤ (decoder 0b1110 (-3) 127).att ∧
    (decoder 0b1110 (-3) 127).att ≤ base.cfg.attMax ∧ -4 < (decoder 0b1110 (-3) 127).acc ∧
    exec .qd1000 (decoder 0b1110 (-3) 127) = .next t := ⟨_, by decide, by decide, by decide, rfl⟩

/-- The sums 0, 1, 2, 3 before the last edge, and 4 with it; the same below zero for the reverse detent. -/
theorem witness_EdgeSums : base.acc = 0 ∧ base.cfg.accStep = 4 ∧ base.cfg.attMin ≤ base.att ∧
    base.att ≤ base.cfg.attMax ∧
    (∀ k, k < 4 → -4 < deltaSum .plusT ((lookups .aHigh 0 forwardDetent).take k) ∧
      deltaSum .plusT ((lookups .aHigh 0 forwardDetent).take k) < 4) ∧
    deltaSum .plusT (lookups .aHigh 0 forwardDetent) = 4 ∧
    deltaSum .plusT (lookups .aHigh 0 reverseDetent) = -4 := by decide

theorem witness_EdgeSums_script :
    { base with script := edges forwardDetent }.script = edges forwardDetent ++ [] := by decide

theorem witness_FourEdges : forwardDetent.length = 4 ∧
    (∀ c ∈ lookups base.cfg.sampleOrder base.hist forwardDetent, c ∈ ringT) ∧
    ∀ c ∈ lookups base.cfg.sampleOrder base.hist reverseDetent, c ∈ ringR := by decide

theorem witness_SecondTick : { base with scanDue := true }.scanDue = true := rfl

theorem witness_WaitPolls : base.scanDue = false ∧ base.phase = .wait ∧
    { base with scanDue := true }.scanDue = true ∧ ∃ t, exec .slDiv base = .next t :=
  ⟨rfl, rfl, rfl, _, rfl⟩

/-- Both directions of the set a scan draws from, at the words with a full and with an empty group. -/
theorem witness_ScannedWords : (slotMask .dim).getLsbD 7 = false ∧
    scanWord ⟨.first, .third, true, true⟩ = 0b10000111 ∧ legalSw 0b10000111 = true ∧
    legalSw 0b11000000 = false ∧ legalSw 0 = true := by decide

theorem witness_LawfulScans : ∃ s t : State, OnlyMoves s ∧ legalSw s.sw = true ∧
    step s = .next t ∧ t.calls ≠ s.calls :=
  ⟨{ base with phase := .scan, script := [.env (.loop released 0)] }, _, by decide, by decide, rfl,
    by decide⟩

theorem witness_Divider : (divNext 16)^[16] 0 = 0 ∧ (divNext 16)^[1] 15 = 0 ∧ (divNext 16)^[15] 0 = 15 := by
  decide

theorem witness_SwitchChangeAlone : (evaluating 0x91 0x90 50 50).sw ≠ (evaluating 0x91 0x90 50 50).snapSw ∧
    (evaluating 0x91 0x90 50 50).att = (evaluating 0x91 0x90 50 50).snapAtt := by decide

theorem witness_ChangeOnce : ∃ s t u : State, exec .slEval s = .next t ∧ u.sw = s.sw ∧ u.att = s.att ∧
    u.snapSw = t.snapSw ∧ u.snapAtt = t.snapAtt ∧ u.busDue = false ∧ u.shiftDue = false :=
  ⟨evaluating 0x50 0x90 126 127, _, evaluating 0x50 0x50 126 126, rfl, rfl, rfl, rfl, rfl, rfl, rfl⟩

theorem witness_ScanLoopNever : ∃ t : State, exec .slWait { base with scanDue := true } = .next t :=
  ⟨_, rfl⟩

theorem witness_PhasesFollow : ∃ s t : State, s.script = [.env (.loop released 0)] ∧ step s = .next t ∧
    s.phase = .eval :=
  ⟨{ evaluating 0x50 0x90 126 127 with script := [.env (.loop released 0)] }, _, rfl, rfl, rfl⟩

theorem witness_EntersOutputPhases : ∃ s t u v : State,
    exec .slEval s = .next t ∧ s.phase ≠ .bus ∧ t.phase = .bus ∧
    exec .slBus u = .next v ∧ u.phase ≠ .shift ∧ v.phase = .shift :=
  ⟨evaluating 0x91 0x90 50 50, _, { base with phase := .bus, busDue := true, shiftDue := true }, _, rfl,
    by decide, by decide, rfl, by decide, by decide⟩

theorem witness_LoopReturns : 5 ≤ (([.loop released 0, .tick, .loop released 0, .loop released 0,
    .qedge true true, .loop released 0, .loop released 0] : List EnvEvent).filter isLoop).length := by decide

theorem witness_BusStatus : ∃ t : State, exec .slBus { base with phase := .bus, busDue := true } = .next t :=
  ⟨_, rfl⟩

/-- The interleaving of vector V-I1: the level moves during the bus wait. -/
theorem witness_PacketIsFixed : ∃ t : State, exec .slEval (evaluating 0x90 0x90 60 61) = .next t ∧
    t.phase = .bus ∧ ∀ e ∈ ([.qedge true false, .tick, .clock] : List EnvEvent), isLoop e = false :=
  ⟨_, rfl, by decide, by decide⟩

theorem witness_EachRegister : ∃ t : State, exec .tick base = .next t ∧ base.scanDue = false ∧
    t.scanDue = true := ⟨_, rfl, rfl, rfl⟩

/-- A state that waits for the bus call to return, with a move of ScanLoop placed and one with none. -/
theorem witness_NoMoveStopsTheCore :
    OnlyMoves { base with phase := .bus, busDue := true, script := [.env (.loop released 7)] } ∧
    OnlyMoves { base with phase := .shift, shiftDue := true } := by decide

theorem witness_OnlyMoves : OnlyMoves base ∧ OnlyMoves { base with script := [.env .tick] } := by decide

theorem witness_Undecodable : decode .phase [0b111] = .error .unusedPhase := by decide

theorem witness_Legal : Legal base.cfg ∧ Legal Config.standard := by
  refine ⟨?_, ?_⟩ <;> constructor <;> decide

theorem witness_SafeState_step : ∃ s t : State, SafeState s ∧ step s = .next t := by
  refine ⟨{ base with script := [.env .tick] }, _, ?_, rfl⟩
  constructor <;> first | exact witness_Legal.1 | decide

end Sys2Proof.Tests
end

/-! ### The step as selection, decoding and execution; what it leaves of the parameters and the traces -/

namespace Sys2Proof.Machine

open Sys2Proof

/-- A step is `exec` of whatever the fetched word decodes to, on the fetched state. -/
theorem step_of_fetch {s t : State} {f : OpFormat} {bytes : List Byte} {i : Instr}
    (hf : fetch s = (some (f, bytes), t)) (hd : decode f bytes = .ok i) : step s = exec i t := by
  simp only [step, hf, hd]

/-- A word that does not decode is refused by name (log 25). -/
theorem step_of_fetch_error {s t : State} {f : OpFormat} {bytes : List Byte} {e : DecodeError}
    (hf : fetch s = (some (f, bytes), t)) (hd : decode f bytes = .error e) :
    step s = .refused (.undecodable e) := by
  simp only [step, hf, hd]

/-- A move that selects no operation only drives the inputs. -/
theorem step_of_fetch_none {s t : State} (hf : fetch s = (none, t)) : step s = .next t := by
  simp only [step, hf]

/-- The state enters a step through what is fetched from it alone. -/
theorem step_congr {s t : State} (h : fetch s = fetch t) : step s = step t := by
  simp only [step, h]

/-- A free move is fetched as if the environment had placed it (log 2). -/
theorem fetch_free_eq_placed {s : State} (h : s.script = []) :
    fetch s = fetch { s with
      script := [.env (Config.environment s.drawn)], drawn := s.drawn + 1 } := by
  rw [fetch_free h, fetch_env rfl, ← h]

/-- A step that answers a next state either ran one decoded operation or selected none. -/
theorem step_next_cases {s t : State} (h : step s = .next t) :
    fetch s = (none, t) ∨
      ∃ f bytes i u, fetch s = (some (f, bytes), u) ∧ decode f bytes = .ok i ∧
        exec i u = .next t := by
  match hf : fetch s with
  | (none, u) =>
    rw [step_of_fetch_none hf] at h
    cases h
    exact .inl rfl
  | (some (f, bytes), u) =>
    cases hd : decode f bytes with
    | ok i => exact .inr ⟨f, bytes, i, u, rfl, hd, step_of_fetch hf hd ▸ h⟩
    | error e =>
      rw [step_of_fetch_error hf hd] at h
      cases h

theorem present_keeps_traces (e : EnvEvent) (s : State) : (present e s).cfg = s.cfg ∧
    (present e s).out = s.out ∧ (present e s).calls = s.calls := by
  cases e <;> exact ⟨rfl, rfl, rfl⟩

/-- Fetching touches neither the parameters nor the two traces. -/
theorem fetch_keeps_traces {s u : State} {w : Option (OpFormat × List Byte)}
    (hf : fetch s = (w, u)) : u.cfg = s.cfg ∧ u.out = s.out ∧ u.calls = s.calls := by
  obtain rfl : (fetch s).2 = u := congrArg Prod.snd hf
  cases hs : s.script with
  | nil => rw [fetch_free hs]; exact present_keeps_traces _ _
  | cons entry rest =>
    cases entry with
    | env e => rw [fetch_env hs]; exact present_keeps_traces _ _
    | word f bytes => rw [fetch_word hs]; exact ⟨rfl, rfl, rfl⟩

/-- The records that one operation appends to the output trace (R161, R164). -/
@[simp] def recordsOf (i : Instr) (s : State) : List Record :=
  match i with
  | .slBus => [.bus s.cfg.busAddr s.cand s.sw s.cfg.busLen s.cfg.busFlag]
  | .slShift => [.shift s.sw]
  | .bus b0 b1 => [.bus s.cfg.busAddr b0 b1 s.cfg.busLen s.cfg.busFlag]
  | .shift b => [.shift b]
  | _ => []

/-- The collaborator calls that one operation appends to the ghost trace (R133; log 24). -/
@[simp] def callsOf : Instr → List Call
  | .slScan => [.debounceTick, .scan .input, .scan .output, .scan .mono, .scan .dim]
  | _ => []

theorem recordsOf_length_le_one (i : Instr) (s : State) : (recordsOf i s).length ≤ 1 := by
  unfold recordsOf
  split <;> simp

/-- `t` has the parameters of `s` and its traces extended by `records` and `calls`. -/
def Appends (records : List Record) (calls : List Call) (s t : State) : Prop :=
  t.cfg = s.cfg ∧ t.out = s.out ++ records ∧ t.calls = s.calls ++ calls

theorem quadrature_appends (c : Code) (s : State) : Appends [] [] s (quadrature c s) := by
  simp [Appends, quadrature]

theorem detentUp_appends (c : Code) (s : State) : Appends [] [] s (detentUp c s) := by
  rw [detentUp_eq]
  split <;> simp [Appends]

theorem detentDown_appends (c : Code) (s : State) : Appends [] [] s (detentDown c s) := by
  rw [detentDown_eq]
  split <;> simp [Appends]

/-- Every operation completes, keeps the parameters and appends exactly its own records and calls. -/
theorem exec_appends (i : Instr) (s : State) :
    ∃ t, exec i s = .next t ∧ Appends (recordsOf i s) (callsOf i) s t := by
  cases i with
  | qstepUp c => exact ⟨_, rfl, detentUp_appends c s⟩
  | qstepDown c => exact ⟨_, rfl, detentDown_appends c s⟩
  | tick => exact ⟨_, rfl, by simp [Appends]⟩
  | slWait => exact ⟨_, rfl, by simp [Appends]⟩
  | slScan => exact ⟨_, rfl, by simp [Appends, scanAll_eq]⟩
  | slDiv => exact ⟨_, rfl, by simp [Appends]⟩
  | slEval => exact ⟨_, execSlEval_eq s, by simp [Appends]⟩
  | slBus => exact ⟨_, rfl, by simp [Appends]⟩
  | slShift => exact ⟨_, rfl, by simp [Appends]⟩
  | bus b0 b1 => exact ⟨_, rfl, by simp [Appends]⟩
  | shift b => exact ⟨_, rfl, by simp [Appends]⟩
  | _ => exact ⟨_, rfl, quadrature_appends _ s⟩

/-- Settles O53: a step runs at most one operation, each operation appends its own records and calls,
and the fetch before it appends nothing. -/
theorem parametersAreFixedAndTracesOnlyGrow : Obligations.ParametersAreFixedAndTracesOnlyGrow := by
  intro s t h
  obtain hf | ⟨f, bytes, i, u, hf, -, hexec⟩ := step_next_cases h
  · obtain ⟨hcfg, hout, hcalls⟩ := fetch_keeps_traces hf
    exact ⟨hcfg, ⟨[], by simp [hout]⟩, [], by simp [hcalls]⟩
  · obtain ⟨hcfg, hout, hcalls⟩ := fetch_keeps_traces hf
    obtain ⟨t', ht', hcfg', hout', hcalls'⟩ := exec_appends i u
    obtain rfl : t = t' := by simpa [ht'] using hexec.symm
    exact ⟨hcfg'.trans hcfg, ⟨recordsOf i u, hout ▸ hout', recordsOf_length_le_one i u⟩,
      callsOf i, hcalls ▸ hcalls'⟩

/-- Settles O5: each kind of entry fetches the word of its agent, which decodes to its row. -/
theorem stepRunsTheSelectedOperation : Obligations.StepRunsTheSelectedOperation := by
  refine ⟨?tick, ?edge, ?loop, ?word, ?free⟩
  case tick =>
    intro s rest h
    exact step_of_fetch (fetch_env h) rfl
  case edge =>
    intro s a b rest c i h hc hi
    subst hc
    exact step_of_fetch (fetch_env h) (decode_qhist hi)
  case loop =>
    intro s w st rest i h hi
    exact step_of_fetch (fetch_env h) (decode_phase hi)
  case word =>
    intro s f bytes rest i h hd
    exact step_of_fetch (fetch_word h) hd
  case free =>
    intro s h
    exact step_congr (fetch_free_eq_placed h)

/-- Settles O55: the fields are the source's literals; the open period is a successor. -/
theorem standardParametersAreTheSourcesTable :
    Obligations.StandardParametersAreTheSourcesTable := by
  have period : 0 < Config.standard.tickPeriod := Nat.succ_pos _
  have table : (List.range 16).map (fun n => delta Config.standard.qtab (BitVec.ofNat 4 n)) =
      [0, -1, 1, 0, 1, 0, 0, -1, -1, 0, 0, 1, 0, 1, -1, 0] := by decide
  exact ⟨rfl, rfl, rfl, rfl, rfl, rfl, rfl, rfl, rfl, rfl, rfl, rfl, rfl, rfl, period, table⟩

end Sys2Proof.Machine

/-! ### The step invariant: what the operations that a move selects leave of `SafeState`

Each update is shown to keep the invariant by naming the clauses it touches; `{ h with … }` carries the
others over, since they speak of fields that the update leaves alone. -/

namespace Sys2Proof.Machine

open Sys2Proof

/-- The two tests of the handler leave the accumulator between the thresholds and the level in its range,
whatever the running accumulator was (R114, R115). -/
theorem hysteresis_range (c : Config) (acc : Int) (att : Byte) (pos : 0 < c.accStep)
    (lo : c.attMin ≤ att) (hi : att ≤ c.attMax) :
    -(c.accStep : Int) < (hysteresis c acc att).1 ∧ (hysteresis c acc att).1 < c.accStep ∧
    c.attMin ≤ (hysteresis c acc att).2 ∧ (hysteresis c acc att).2 ≤ c.attMax := by
  rcases lt_or_ge ((c.accStep : Int) - 1) acc with up | notUp
  · rw [hysteresis_up c acc att pos up]
    exact ⟨by simpa using pos, by simpa using pos, louder_range c att lo hi⟩
  rcases lt_or_ge acc (-((c.accStep : Int) - 1)) with down | notDown
  · rw [hysteresis_down c acc att pos down]
    exact ⟨by simpa using pos, by simpa using pos, quieter_range c att lo hi⟩
  · rw [hysteresis_band c acc att (by omega) (by omega)]
    exact ⟨by omega, by omega, lo, hi⟩

/-- Reading one more record goes on from where the automaton stands. -/
@[simp] theorem readTrace_append (out : List Record) (r : Record) :
    readTrace (out ++ [r]) = readRecord (readTrace out) r := by
  simp [readTrace]

/-- A bus transaction behind a paired trace is remembered by its switch word. -/
theorem readRecord_bus {q : Option (Option Byte)} (hq : q ≠ none) (addr : Nat) (b0 b1 : Byte)
    (len flag : Nat) : readRecord q (.bus addr b0 b1 len flag) = some (some b1) := by
  cases q with
  | none => exact absurd rfl hq
  | some last => rfl

/-- A shift-out of the switch word just sent is accepted (R165, R166). -/
theorem readRecord_shift_same (b : Byte) : readRecord (some (some b)) (.shift b) = some none :=
  if_pos rfl

section
variable {s t : State} (h : SafeState s)
include h

/-- Thresholds that the accumulator lies between are apart. -/
theorem SafeState.accStep_pos : 0 < s.cfg.accStep := by
  have low := h.acc_low
  have high := h.acc_high
  omega

theorem SafeState.present (e : EnvEvent) : SafeState (present e s) := by
  cases e <;> exact { h with }

theorem SafeState.tick (ht : exec .tick s = .next t) : SafeState t := by
  cases ht
  exact { h with }

theorem SafeState.quadrature (c : Code) : SafeState (quadrature c s) := by
  obtain ⟨accLow, accHigh, attLow, attHigh⟩ := hysteresis_range s.cfg (s.acc + delta s.cfg.qtab c)
    s.att h.accStep_pos h.att_low h.att_range
  exact { h with att_low := attLow, att_range := attHigh, acc_low := accLow, acc_high := accHigh }

/-- With nothing marked the loop may go to any phase but the two output phases. -/
theorem SafeState.setPhase_quiet {p : Phase} (hp : p ≠ .bus ∧ p ≠ .shift)
    (marks : s.busDue = false ∧ s.shiftDue = false) : SafeState (setPhase p s) :=
  { h with
    idle := fun _ _ => marks
    in_bus := fun e => absurd e hp.1
    in_shift := fun e => absurd e hp.2 }

/-- `SL.WAIT` polls with nothing marked and goes on to `SCAN` or stays (R130). -/
theorem SafeState.slWait (hp : s.phase = .wait) (ht : exec .slWait s = .next t) : SafeState t := by
  have marks := h.idle (by simp [hp]) (by simp [hp])
  have taken : SafeState (takeScanDue s).2 := { h with }
  cases ht
  exact taken.setPhase_quiet (afterWait_ne _) marks

/-- `SL.SCAN` leaves a word that keeps the group rule (R134), while no phase compares it yet. -/
theorem SafeState.slScan (hp : s.phase = .scan) (ht : exec .slScan s = .next t) : SafeState t := by
  have marks := h.idle (by simp [hp]) (by simp [hp])
  have scanned : SafeState (scanAll s) := by
    rw [scanAll_eq]
    exact { h with
      sw_legal := scanWord_legal s.pins
      in_bus := fun e => by simp [hp] at e
      in_shift := fun e => by simp [hp] at e }
  cases ht
  exact scanned.setPhase_quiet ⟨by decide, by decide⟩ marks

/-- `SL.DIV` counts within the residues of `DIV_N` (R135). -/
theorem SafeState.slDiv (hp : s.phase = .div) (ht : exec .slDiv s = .next t) : SafeState t := by
  have marks := h.idle (by simp [hp]) (by simp [hp])
  have counted : SafeState (countDiv s) :=
    { h with div_range := divNext_lt s.cfg.divN s.div (Nat.zero_lt_of_lt h.div_range) }
  cases ht
  exact counted.setPhase_quiet (afterDiv_ne _) marks

/-- `SL.EVAL` starts with nothing marked, so the marks it leaves are the changes it finds, and it goes to
`BUS` exactly if there is one (R138, R140, R144); the candidate is the level read, dimmed at most (R141). -/
theorem SafeState.slEval (hp : s.phase = .eval) (ht : exec .slEval s = .next t) : SafeState t := by
  obtain ⟨busClear, shiftClear⟩ := h.idle (by simp [hp]) (by simp [hp])
  obtain ⟨toBus, notShift⟩ := afterEval_changes (s.sw != s.snapSw) (s.att != s.snapAtt)
  have eval := execSlEval_eq s
  simp only [busClear, shiftClear, Bool.false_or] at eval
  cases eval.symm.trans ht
  exact { h with
    cand_range := candidate_range _ _ _ _ h.att_range
    idle := fun notBus _ =>
      have unchanged := Bool.eq_false_iff.mpr (mt toBus.mpr notBus)
      ⟨unchanged, (Bool.or_eq_false_iff.mp unchanged).1⟩
    in_bus := fun e => ⟨toBus.mp e, rfl, candidate_cases _ _ _ _⟩
    in_shift := fun e => absurd e notShift }

/-- `SL.BUS` sends a legal record and clears its mark; the shift-out that may follow finds its bus
transaction directly before it (R162, R165, R166). -/
theorem SafeState.slBus (hp : s.phase = .bus) (ht : exec .slBus s = .next t) : SafeState t := by
  obtain ⟨-, swSent, -⟩ := h.in_bus hp
  have trace : readTrace (s.out ++ [.bus s.cfg.busAddr s.cand s.sw s.cfg.busLen s.cfg.busFlag]) =
      some (some s.sw) := by
    rw [readTrace_append, readRecord_bus h.paired]
  cases ht
  exact { h with
    idle := fun _ notShift => ⟨rfl, by simpa using mt (afterBus_shift s.shiftDue).mpr notShift⟩
    in_bus := fun e => absurd e (afterBus_ne s.shiftDue)
    in_shift := fun e => ⟨rfl, (afterBus_shift s.shiftDue).mp e, swSent, trace⟩
    records := List.forall_mem_append.mpr ⟨h.records, by simp [recordOk, h.cand_range]⟩
    paired := by simp [Paired, trace] }

/-- `SL.SHIFT` follows a bus transaction of the same word, clears its mark and returns to `WAIT` (R164 to
R166). -/
theorem SafeState.slShift (hp : s.phase = .shift) (ht : exec .slShift s = .next t) : SafeState t := by
  obtain ⟨busClear, -, -, sent⟩ := h.in_shift hp
  have trace : readTrace (s.out ++ [.shift s.sw]) = some none := by
    rw [readTrace_append, sent, readRecord_shift_same]
  cases ht
  exact { h with
    idle := fun _ _ => ⟨busClear, rfl⟩
    in_bus := nofun
    in_shift := nofun
    records := List.forall_mem_append.mpr ⟨h.records, by simp [recordOk]⟩
    paired := by simp [Paired, trace] }

/-- The action of the present phase keeps the invariant. -/
theorem SafeState.phaseAction {i : Instr} (row : (phaseCode s.phase, i) ∈ phaseRows)
    (ht : exec i s = .next t) : SafeState t := by
  obtain ⟨hp, rfl⟩ | ⟨hp, rfl⟩ | ⟨hp, rfl⟩ | ⟨hp, rfl⟩ | ⟨hp, rfl⟩ | ⟨hp, rfl⟩ := phaseRow_cases row
  · exact h.slWait hp ht
  · exact h.slScan hp ht
  · exact h.slDiv hp ht
  · exact h.slEval hp ht
  · exact h.slBus hp ht
  · exact h.slShift hp ht

end

/-- Settles O51: a move drives inputs that the invariant does not mention, and the expiry, the handler and
the action of the present phase each keep it. -/
theorem everyStepKeepsTheInvariant : Obligations.EveryStepKeepsTheInvariant := by
  intro s t h hstep
  obtain ⟨e, s1, moves, hs1, hcase⟩ := step_moves_cases h.moves
  have safe1 : SafeState s1 := by
    rw [hs1]
    exact { h with moves := moves }
  have safe : SafeState (present e s1) := safe1.present e
  obtain ⟨-, hs⟩ | ⟨-, hs⟩ | ⟨a, b, c, i, -, row, hs⟩ | ⟨w, st, i, rfl, row, hs⟩ := hcase
  · cases hs.symm.trans hstep
    exact safe
  · exact safe.tick (hs.symm.trans hstep)
  · cases (exec_qd row _).symm.trans (hs.symm.trans hstep)
    exact safe.quadrature c
  · have samePhase : (present (.loop w st) s1).phase = s.phase := by rw [hs1]; rfl
    exact safe.phaseAction (samePhase ▸ row) (hs.symm.trans hstep)

end Sys2Proof.Machine

/-! ### The registers' owners, the slots of the switch word and the state after boot -/

namespace Sys2Proof.Machine

open Sys2Proof

/-- The slot that owns a bit of the switch word (R12). -/
def slotOf : Nat → Slot
  | 0 => .dim
  | 1 => .mono
  | 2 | 3 | 4 => .output
  | _ => .input

theorem slotMask_bit (slot : Slot) {i : Nat} (hi : i < 8) :
    (slotMask slot).getLsbD i = true ↔ slot = slotOf i := by
  cases slot <;> interval_cases i <;> decide

/-- Settles O26: a scanner takes the bits under its mask from what it reads, and each bit lies under the
mask of its slot only. -/
theorem scannersWriteOnlyTheirOwnSlot : Obligations.ScannersWriteOnlyTheirOwnSlot := by
  refine ⟨fun slot s i hi => ?_, fun i hi => ⟨slotOf i, (slotMask_bit _ hi).mpr rfl, fun _ other => ?_⟩⟩
  · rw [← writeSlot_bit _ _ _ _ hi]
    rfl
  · exact (slotMask_bit _ hi).mp other

/-- What an operation does to the state: the 16 table rows run one handler, every other operation its own
updates. -/
inductive Effect (s : State) : Instr → State → Prop where
  | handler {c : Code} {i : Instr} (row : (c, i) ∈ qdRows) : Effect s i (quadrature c s)
  | detentUp (c : Code) : Effect s (.qstepUp c) (detentUp c s)
  | detentDown (c : Code) : Effect s (.qstepDown c) (detentDown c s)
  | tick : Effect s .tick (raiseScanDue (reloadTimer s))
  | slWait : Effect s .slWait (setPhase (afterWait s.scanDue) (takeScanDue s).2)
  | slScan : Effect s .slScan (setPhase .div (scanAll s))
  | slDiv : Effect s .slDiv (setPhase (afterDiv (countDiv s).div) (countDiv s))
  | slEval : Effect s .slEval
      (dispatchDue (loadCand (candidate s.cfg s.sw s.att s.snapAtt) (markLevel (markSwitch s))))
  | slBus : Effect s .slBus (setPhase (afterBus s.shiftDue) (clearBusDue (emitBus s.cand s.sw s)))
  | slShift : Effect s .slShift (setPhase .wait (clearShiftDue (emitShift s.sw s)))
  | bus (b0 b1 : Byte) : Effect s (.bus b0 b1) (emitBus b0 b1 s)
  | shift (b : Byte) : Effect s (.shift b) (emitShift b s)

theorem effect_of_exec {i : Instr} {s t : State} (h : exec i s = .next t) : Effect s i t := by
  cases i with
  | qstepUp c => cases h; exact .detentUp c
  | qstepDown c => cases h; exact .detentDown c
  | tick => cases h; exact .tick
  | slWait => cases h; exact .slWait
  | slScan => cases h; exact .slScan
  | slDiv => cases h; exact .slDiv
  | slEval => cases h; exact .slEval
  | slBus => cases h; exact .slBus
  | slShift => cases h; exact .slShift
  | bus b0 b1 => cases h; exact .bus b0 b1
  | shift b => cases h; exact .shift b
  | _ => cases h; exact .handler (by simp [qdRows])

/-- Settles O40: the effect of each operation, read off field by field. -/
theorem eachRegisterHasItsOwner : Obligations.EachRegisterHasItsOwner := by
  intro i s t h
  cases effect_of_exec h with
  | handler row =>
    have owner : ∃ c, (c, i) ∈ qdRows := ⟨_, row⟩
    have decoder : ∃ c, (c, i) ∈ qdRows ∨ i = .qstepUp c ∨ i = .qstepDown c := ⟨_, .inl row⟩
    simp +contextual [quadrature_eq, owner, decoder]
  | detentUp c =>
    rw [detentUp_eq]
    split <;> simp
  | detentDown c =>
    rw [detentDown_eq]
    split <;> simp
  | tick => simp
  | slWait =>
    have owner : ∃ p, (phaseCode p, Instr.slWait) ∈ phaseRows := ⟨.wait, by decide⟩
    simp [owner]
  | slScan =>
    have owner : ∃ p, (phaseCode p, Instr.slScan) ∈ phaseRows := ⟨.scan, by decide⟩
    simp [scanAll_eq, owner]
  | slDiv =>
    have owner : ∃ p, (phaseCode p, Instr.slDiv) ∈ phaseRows := ⟨.div, by decide⟩
    simp [owner]
  | slEval =>
    have owner : ∃ p, (phaseCode p, Instr.slEval) ∈ phaseRows := ⟨.eval, by decide⟩
    simp [owner]
  | slBus =>
    have owner : ∃ p, (phaseCode p, Instr.slBus) ∈ phaseRows := ⟨.bus, by decide⟩
    simp [owner]
  | slShift =>
    have owner : ∃ p, (phaseCode p, Instr.slShift) ∈ phaseRows := ⟨.shift, by decide⟩
    simp [owner]
  | bus b0 b1 => simp
  | shift b => simp

/-- A scan leaves a word that keeps the group rule, whatever the word was before (R134). -/
theorem execSlScan_legal {s t : State} (h : exec .slScan s = .next t) : legalSw t.sw = true := by
  cases h
  simp [scanAll_eq]

/-- The switch word and the collaborator calls change only in an operation that leaves a legal word. -/
theorem exec_keeps_or_scans {i : Instr} {s t : State} (h : exec i s = .next t) :
    (t.sw = s.sw ∧ t.calls = s.calls) ∨ legalSw t.sw = true := by
  obtain ⟨-, -, -, -, -, scanOnly, -⟩ := eachRegisterHasItsOwner i s t h
  by_cases same : t.sw = s.sw ∧ t.calls = s.calls
  · exact .inl same
  · obtain rfl : i = .slScan := scanOnly (not_and_or.mp same)
    exact .inr (execSlScan_legal h)

/-- A move drives inputs; the switch word and the calls are the core's own. -/
theorem fetch_keeps_sw {s u : State} {w : Option (OpFormat × List Byte)} (moves : OnlyMoves s)
    (hf : fetch s = (w, u)) : u.sw = s.sw := by
  obtain ⟨e, s1, hs, -, hs1⟩ := fetch_moves moves
  cases hs.symm.trans hf
  rw [hs1]
  cases e <;> rfl

/-- Settles O27: what a move fetches leaves the word and the calls, and of the operations only a scan
writes them. -/
theorem lawfulScansKeepTheGroupInvariant : Obligations.LawfulScansKeepTheGroupInvariant := by
  intro s t moves hstep
  obtain hf | ⟨f, bytes, i, u, hf, -, hexec⟩ := step_next_cases hstep
  · obtain ⟨-, -, sameCalls⟩ := fetch_keeps_traces hf
    exact ⟨fun legal => fetch_keeps_sw moves hf ▸ legal, fun called => absurd sameCalls called⟩
  · obtain ⟨-, -, sameCalls⟩ := fetch_keeps_traces hf
    have sameSw := fetch_keeps_sw moves hf
    obtain ⟨keptSw, keptCalls⟩ | legal := exec_keeps_or_scans hexec
    · exact ⟨fun legal => by rw [keptSw, sameSw, legal],
        fun called => absurd (keptCalls.trans sameCalls) called⟩
    · exact ⟨fun _ => legal, fun _ => legal⟩

/-- Settles O47: the reset state takes both registers from its parameters, by default the source's two. -/
theorem powerOnLevelAndSwitchWord : Obligations.PowerOnLevelAndSwitchWord :=
  ⟨fun _ => ⟨rfl, rfl⟩, rfl, rfl⟩

/-- Settles O48: the fields of the reset state, in general and under the default parameters. -/
theorem entryStateWaitsAndHasSentNothing : Obligations.EntryStateWaitsAndHasSentNothing :=
  ⟨fun _ => ⟨rfl, rfl, rfl, rfl, rfl, rfl, rfl, rfl, rfl, rfl, rfl⟩, rfl, rfl, rfl, rfl, rfl⟩

/-- After boot the loop waits, so only the ranges of the reset values are asked for. -/
theorem resetWith_safe {c : Config} (h : Legal c) : SafeState (State.resetWith c) where
  legal := h
  att_low := h.att_low
  att_range := h.att_high
  sw_legal := h.sw_reset
  acc_low := h.acc_low
  acc_high := h.acc_high
  div_range := h.div_reset
  cand_range := BitVec.le_def.mpr (Nat.zero_le _)
  idle _ _ := ⟨rfl, rfl⟩
  in_bus := nofun
  in_shift := nofun
  records := nofun
  paired := nofun
  moves := nofun

/-- The default parameters meet what the spec asks of them; the open timer period is a successor. -/
theorem standard_legal : Legal Config.standard where
  acc_low := by decide
  acc_high := by decide
  period := Nat.succ_pos _
  div_reset := by decide
  att_low := by decide
  att_high := by decide
  att_fits := by decide
  sw_reset := by decide
  bus_len := rfl

/-- Settles O50: boot with any legal parameters, and with the default ones, which are legal. -/
theorem resetMeetsTheInvariant : Obligations.ResetMeetsTheInvariant :=
  ⟨fun _ => resetWith_safe, resetWith_safe standard_legal⟩

end Sys2Proof.Machine

/-! ### Handlers between the phase actions -/

namespace Sys2Proof.Machine

open Sys2Proof

/-- An expiry writes the flag and the timer (R80). -/
theorem exec_tick (s : State) : exec .tick s = .next { s with scanDue := true, tmr := 0 } := rfl

/-- A poll that finds the flag set clears it and goes on to `SCAN` (R130). -/
theorem execSlWait_due {s : State} (due : s.scanDue = true) :
    exec .slWait s = .next { s with scanDue := false, phase := .scan } := by
  change Host.Outcome.next (setPhase (afterWait s.scanDue) (takeScanDue s).2) = _
  rw [due]
  rfl

/-- Settles O43: an expiry before the poll finds the flag set already, and the poll leaves the timer alone;
an expiry after it sets the flag again and leaves the phase alone. -/
theorem expiryRacingThePollIsMergedOrKept : Obligations.ExpiryRacingThePollIsMergedOrKept :=
  fun s due => ⟨_, _, _, _, execSlWait_due due, exec_tick s, execSlWait_due rfl, rfl,
    exec_tick _, rfl, rfl⟩

/-- The operation `j` always completes, with a state update that commutes with `f`. -/
def CommutesWith (f : State → State) (j : Instr) : Prop :=
  ∃ g : State → State, (∀ s, exec j s = .next (g s)) ∧ Function.Commute f g

/-- An operation that updates the state by `f` may come before or after `j`. -/
theorem CommutesWith.either_order {f : State → State} {i j : Instr} (comm : CommutesWith f j)
    (hi : ∀ s, exec i s = .next (f s)) (s : State) :
    ∃ t u v, exec i s = .next t ∧ exec j t = .next v ∧ exec j s = .next u ∧ exec i u = .next v := by
  obtain ⟨g, hj, hfg⟩ := comm
  exact ⟨f s, g s, g (f s), hi s, hj (f s), hj s, by rw [hi, hfg s]⟩

/-- The handler reads and writes `HIST`, `ACC` and `ATT`, which of the phase actions only `SL.EVAL` reads
and none writes (R45). -/
theorem quadrature_commutesWith (c : Code) :
    ∀ j ∈ ([.slWait, .slScan, .slDiv, .slBus, .slShift] : List Instr), CommutesWith (quadrature c) j := by
  simp only [List.forall_mem_cons]
  refine ⟨?slWait, ?slScan, ?slDiv, ?slBus, ?slShift, List.forall_mem_nil _⟩ <;>
    exact ⟨_, fun _ => rfl, fun _ => rfl⟩

/-- An expiry writes the flag and the timer, which of the phase actions only `SL.WAIT` uses (R45). -/
theorem expiry_commutesWith :
    ∀ j ∈ ([.slScan, .slDiv, .slEval, .slBus, .slShift] : List Instr),
      CommutesWith (fun s => { s with scanDue := true, tmr := 0 }) j := by
  simp only [List.forall_mem_cons]
  refine ⟨?slScan, ?slDiv, ?slEval, ?slBus, ?slShift, List.forall_mem_nil _⟩
  case slEval => exact ⟨_, execSlEval_eq, fun _ => rfl⟩
  all_goals exact ⟨_, fun _ => rfl, fun _ => rfl⟩

/-- Settles O42: each handler's update commutes with the phase actions that do not use its registers. -/
theorem handlersCommuteWithPhaseActions : Obligations.HandlersCommuteWithPhaseActions :=
  ⟨fun c _ row j hj => (quadrature_commutesWith c j hj).either_order (exec_qd row),
    fun j hj => (expiry_commutesWith j hj).either_order exec_tick⟩

end Sys2Proof.Machine

/-! ### Operation words: the decoder and the encoder agree -/

namespace Sys2Proof.Machine

open Sys2Proof

/-- `Word f bytes i`: the operation `i` has the word `bytes` in the format `f`, as the encoding column of
the operation table gives it (R60, R73). The decoder and the encoder are each compared with this relation. -/
inductive Word : OpFormat → List Byte → Instr → Prop where
  | table {c : Code} {i : Instr} (row : (c, i) ∈ qdRows) : Word .qhist [c.setWidth 8] i
  | stepUp (c : Code) : Word .qhistUp [c.setWidth 8] (.qstepUp c)
  | stepDown (c : Code) : Word .qhistDown [c.setWidth 8] (.qstepDown c)
  | strobe : Word .strobe [1] .tick
  | phase {p : Phase} {i : Instr} (row : (phaseCode p, i) ∈ phaseRows) :
      Word .phase [(phaseCode p).setWidth 8] i
  | packet {b0 : Byte} (b1 : Byte) (range : b0.getLsbD 7 = false) : Word .busPkt [b0, b1] (.bus b0 b1)
  | shiftByte (b : Byte) : Word .shiftByte [b] (.shift b)

/-! #### The decoder reads the words, and only the words -/

theorem narrow_setWidth {n : Nat} (hn : n ≤ 8) (c : BitVec n) : narrow n (c.setWidth 8) = .ok c := by
  have fits : (c.setWidth 8).toNat < 2 ^ n := by
    rw [BitVec.toNat_setWidth]
    exact (Nat.mod_le _ _).trans_lt c.isLt
  rw [narrow, if_pos fits, BitVec.setWidth_setWidth_of_le c hn, BitVec.setWidth_eq]

theorem eq_setWidth_of_narrow {n : Nat} {b : Byte} {c : BitVec n} (h : narrow n b = .ok c) :
    b = c.setWidth 8 := by
  unfold narrow at h
  split at h
  next fits =>
    cases h
    apply BitVec.eq_of_toNat_eq
    rw [BitVec.toNat_setWidth, BitVec.toNat_setWidth, Nat.mod_eq_of_lt fits, Nat.mod_eq_of_lt b.isLt]
  next => cases h

theorem decodeWildcard_setWidth (mk : Code → Instr) (c : Code) :
    decodeWildcard mk (c.setWidth 8) = .ok (mk c) := by
  rw [decodeWildcard, narrow_setWidth (by decide)]

theorem decodeBus_of_range {b0 : Byte} (b1 : Byte) (range : b0.getLsbD 7 = false) :
    decodeBus b0 b1 = .ok (.bus b0 b1) := by
  rw [decodeBus, range]
  rfl

/-- Every word decodes, in its format, to its operation. -/
theorem Word.decode_eq {f : OpFormat} {bytes : List Byte} {i : Instr} (h : Word f bytes i) :
    decode f bytes = .ok i := by
  cases h with
  | table row => exact decode_qhist row
  | stepUp c => exact decodeWildcard_setWidth .qstepUp c
  | stepDown c => exact decodeWildcard_setWidth .qstepDown c
  | strobe => rfl
  | phase row => exact decode_phase row
  | packet b1 range => exact decodeBus_of_range b1 range
  | shiftByte b => rfl

theorem mem_of_lookup_eq_some {α β : Type} [BEq α] [LawfulBEq α] {l : List (α × β)} {a : α} {b : β}
    (h : l.lookup a = some b) : (a, b) ∈ l := by
  obtain ⟨before, after, rfl, -⟩ := List.lookup_eq_some_iff.mp h
  simp

theorem word_of_decodeQhist {b : Byte} {i : Instr} (h : decodeQhist b = .ok i) : Word .qhist [b] i := by
  unfold decodeQhist at h
  split at h
  next => cases h
  next c hc =>
    obtain rfl := eq_setWidth_of_narrow hc
    split at h
    next j row =>
      cases h
      exact .table (mem_of_lookup_eq_some row)
    next => cases h

/-- A wildcard is the low half of its byte, whatever the operation it is an operand of. -/
theorem eq_of_decodeWildcard {mk : Code → Instr} {b : Byte} {i : Instr}
    (h : decodeWildcard mk b = .ok i) : ∃ c : Code, b = c.setWidth 8 ∧ i = mk c := by
  unfold decodeWildcard at h
  split at h
  next => cases h
  next c hc =>
    cases h
    exact ⟨c, eq_setWidth_of_narrow hc, rfl⟩

theorem word_of_decodeStrobe {b : Byte} {i : Instr} (h : decodeStrobe b = .ok i) :
    Word .strobe [b] i := by
  unfold decodeStrobe at h
  split at h
  next => cases h
  next t ht =>
    obtain rfl := eq_setWidth_of_narrow ht
    split at h
    next expired =>
      cases h
      subst expired
      exact .strobe
    next => cases h

theorem exists_phase_of_row {c : BitVec 3} {i : Instr} (h : (c, i) ∈ phaseRows) :
    ∃ p, phaseCode p = c := by
  have codes : ∀ row ∈ phaseRows,
      row.1 ∈ [Phase.wait, .scan, .div, .eval, .bus, .shift].map phaseCode := by decide
  obtain ⟨p, -, hp⟩ := List.mem_map.mp (codes _ h)
  exact ⟨p, hp⟩

theorem word_of_decodePhase {b : Byte} {i : Instr} (h : decodePhase b = .ok i) : Word .phase [b] i := by
  unfold decodePhase at h
  split at h
  next => cases h
  next c hc =>
    obtain rfl := eq_setWidth_of_narrow hc
    split at h
    next j hj =>
      cases h
      have row := mem_of_lookup_eq_some hj
      obtain ⟨p, rfl⟩ := exists_phase_of_row row
      exact .phase row
    next => cases h

theorem word_of_decodeBus {b0 b1 : Byte} {i : Instr} (h : decodeBus b0 b1 = .ok i) :
    Word .busPkt [b0, b1] i := by
  unfold decodeBus at h
  split at h
  next => cases h
  next range =>
    cases h
    exact .packet b1 (Bool.eq_false_of_not_eq_true range)

/-- What decodes is a word of the operation it decodes to. -/
theorem word_of_decode {f : OpFormat} {bytes : List Byte} {i : Instr} (h : decode f bytes = .ok i) :
    Word f bytes i := by
  unfold decode at h
  split at h
  next b => exact word_of_decodeQhist h
  next b =>
    obtain ⟨c, rfl, rfl⟩ := eq_of_decodeWildcard h
    exact .stepUp c
  next b =>
    obtain ⟨c, rfl, rfl⟩ := eq_of_decodeWildcard h
    exact .stepDown c
  next b => exact word_of_decodeStrobe h
  next b => exact word_of_decodePhase h
  next b0 b1 => exact word_of_decodeBus h
  next b =>
    cases h
    exact .shiftByte b
  next => cases h

/-! #### The encoder writes the word of each well-formed operation -/

theorem encode_qdRow : ∀ row ∈ qdRows,
    encode row.2 = (.qhist, [row.1.setWidth 8]) ∧ WellFormed row.2 = true := by decide

theorem encode_phaseRow : ∀ row ∈ phaseRows,
    encode row.2 = (.phase, [row.1.setWidth 8]) ∧ WellFormed row.2 = true := by decide

theorem Word.encode_eq_and_wellFormed {f : OpFormat} {bytes : List Byte} {i : Instr} (h : Word f bytes i) :
    encode i = (f, bytes) ∧ WellFormed i = true := by
  cases h with
  | table row => exact encode_qdRow _ row
  | phase row => exact encode_phaseRow _ row
  | packet b1 range => exact ⟨rfl, by rw [WellFormed, range]; rfl⟩
  | _ => exact ⟨rfl, rfl⟩

theorem exists_word_of_qdRow {i : Instr} (h : ∃ c, (c, i) ∈ qdRows) : ∃ f bytes, Word f bytes i := by
  obtain ⟨c, row⟩ := h
  exact ⟨_, _, .table row⟩

/-- Every well-formed operation has a word; the form check matters to the bus packet only. -/
theorem exists_word {i : Instr} (wf : WellFormed i = true) : ∃ f bytes, Word f bytes i := by
  cases i with
  | qstepUp c => exact ⟨_, _, .stepUp c⟩
  | qstepDown c => exact ⟨_, _, .stepDown c⟩
  | tick => exact ⟨_, _, .strobe⟩
  | slWait => exact ⟨_, _, .phase (p := .wait) (by decide)⟩
  | slScan => exact ⟨_, _, .phase (p := .scan) (by decide)⟩
  | slDiv => exact ⟨_, _, .phase (p := .div) (by decide)⟩
  | slEval => exact ⟨_, _, .phase (p := .eval) (by decide)⟩
  | slBus => exact ⟨_, _, .phase (p := .bus) (by decide)⟩
  | slShift => exact ⟨_, _, .phase (p := .shift) (by decide)⟩
  | bus b0 b1 => exact ⟨_, _, .packet b1 ((Bool.not_eq_true' _).mp wf)⟩
  | shift b => exact ⟨_, _, .shiftByte b⟩
  | _ => exact exists_word_of_qdRow (by simp [qdRows])

/-- Settles O1: a well-formed operation has a word, which the encoder writes and the decoder reads. -/
theorem decodeOfEncodeIsTheOperation : Obligations.DecodeOfEncodeIsTheOperation := by
  intro i wf
  obtain ⟨f, bytes, word⟩ := exists_word wf
  obtain ⟨hencode, -⟩ := word.encode_eq_and_wellFormed
  rw [hencode]
  exact word.decode_eq

/-- Settles O2: what decodes is a word of its operation, and the encoder writes that word. -/
theorem encodeOfDecodeIsTheWord : Obligations.EncodeOfDecodeIsTheWord :=
  fun _ _ _ h => (word_of_decode h).encode_eq_and_wellFormed

end Sys2Proof.Machine

/-! ### Legal codes, refusals, and the next step of a prepared state -/

namespace Sys2Proof.Machine

open Sys2Proof

/-- Settles O3: each word is evaluated by the decoder of its format. -/
theorem wordsWrittenOutDecode : Obligations.WordsWrittenOutDecode :=
  ⟨rfl, rfl, rfl, rfl, rfl, rfl, rfl, rfl⟩

theorem decodeBus_of_large {b0 : Byte} (b1 : Byte) (large : 127 < b0.toNat) :
    decodeBus b0 b1 = .error .busByteRange := by
  have top : b0.getLsbD 7 = true := by
    rw [← BitVec.msb_eq_getLsbD_last b0, BitVec.msb_eq_true_iff_two_mul_ge]
    omega
  rw [decodeBus, if_pos top]

/-- Settles O4: each history code has its table row and is a wildcard as it stands; the two codes without
a phase and the packets whose byte 0 has bit 7 set are refused. -/
theorem legalAndIllegalCodes : Obligations.LegalAndIllegalCodes := by
  refine ⟨fun c => ⟨?_, (Word.stepUp c).decode_eq, (Word.stepDown c).decode_eq⟩,
    fun b => (Word.shiftByte b).decode_eq, rfl, rfl, fun _ b1 large => decodeBus_of_large b1 large⟩
  obtain ⟨i, row⟩ := exists_qdRow c
  exact ⟨i, row, decode_qhist row⟩

/-- Settles O46: the presented word is what is fetched. -/
theorem undecodableWordsAreRefused : Obligations.UndecodableWordsAreRefused :=
  fun _ _ _ _ _ hs hd => step_of_fetch_error (fetch_word hs) hd

/-- A move is fetched with a word that decodes, or with none, so it never stops the core. -/
theorem step_of_moves {s : State} (moves : OnlyMoves s) :
    ∃ u, OnlyMoves u ∧ (step s = .next u ∨ ∃ i, step s = exec i u) := by
  obtain ⟨e, s1, moves1, -, hcase⟩ := step_moves_cases moves
  have script : (present e s1).script = s1.script := by cases e <;> rfl
  refine ⟨present e s1, by rwa [OnlyMoves, script], ?_⟩
  obtain ⟨-, hs⟩ | ⟨-, hs⟩ | ⟨-, -, -, i, -, -, hs⟩ | ⟨-, -, i, -, -, hs⟩ := hcase
  · exact .inl hs
  · exact .inr ⟨.tick, hs⟩
  · exact .inr ⟨i, hs⟩
  · exact .inr ⟨i, hs⟩

theorem exec_keeps_script {i : Instr} {s t : State} (h : exec i s = .next t) : t.script = s.script := by
  obtain ⟨-, -, -, -, -, -, -, -, -, -, -, -, -, script, -⟩ := eachRegisterHasItsOwner i s t h
  exact script

/-- Settles O45: every operation completes and leaves the moves to come as they are. -/
theorem noMoveStopsTheCore : Obligations.NoMoveStopsTheCore := by
  intro s moves
  obtain ⟨u, movesU, hs | ⟨i, hs⟩⟩ := step_of_moves moves
  · exact ⟨u, hs, movesU⟩
  · obtain ⟨t, ht, -⟩ := exec_appends i u
    exact ⟨t, hs.trans ht, by rwa [OnlyMoves, exec_keeps_script ht]⟩

/-! #### A word placed for the next step -/

theorem decode_of_decodeTableWord {nbits w : Nat} {i : Instr} (h : decodeTableWord nbits w = some i) :
    decode (tableWord nbits w).1 (tableWord nbits w).2 = .ok i := by
  unfold decodeTableWord at h
  split at h
  next =>
    split at h
    next hd =>
      cases h
      exact hd
    next => cases h
  next => cases h

theorem phaseOf_phaseCode (p : Phase) : phaseOf (phaseCode p) = some p := by
  cases p <;> rfl

/-- A history code is placed as an edge that completes it. -/
theorem placeWord_table {c : Code} {i : Instr} (row : (c, i) ∈ qdRows) (s : State) :
    placeWord .qhist [c.setWidth 8] s =
      schedule (.env (.qedge (linesOf s.cfg.sampleOrder (curOf c)).1
        (linesOf s.cfg.sampleOrder (curOf c)).2)) (aimHist c s) := by
  simp only [placeWord, decode_qhist row, BitVec.setWidth_setWidth_of_le c (by decide : 4 ≤ 8),
    BitVec.setWidth_eq]

/-- A phase code is placed as that phase and a move of ScanLoop. -/
theorem placeWord_phase {p : Phase} {i : Instr} (row : (phaseCode p, i) ∈ phaseRows) (s : State) :
    placeWord .phase [(phaseCode p).setWidth 8] s =
      schedule (.env (.loop s.pins s.status)) (setPhase p s) := by
  simp only [placeWord, decode_phase row,
    BitVec.setWidth_setWidth_of_le (phaseCode p) (by decide : 3 ≤ 8), BitVec.setWidth_eq,
    phaseOf_phaseCode]

/-- `t` differs from `s` at most in what a placed word sets up: history, phase and encoder lines (log 10). -/
def PreparedFrom (s t : State) : Prop :=
  t = { s with hist := t.hist, phase := t.phase, encA := t.encA, encB := t.encB }

/-- A word that no move of the environment selects is presented by itself, to the state as it stands. -/
theorem step_placeWord_bare {f : OpFormat} {bytes : List Byte} {i : Instr} (hd : decode f bytes = .ok i)
    (bare : f ∉ [OpFormat.qhist, .strobe, .phase]) (s : State) : step (placeWord f bytes s) = exec i s := by
  have placed : placeWord f bytes s = schedule (.word f bytes) s := by
    unfold placeWord
    rw [hd]
    cases f with
    | qhist | strobe | phase => exact absurd (by decide) bare
    | _ => rfl
  rw [placed]
  exact step_of_fetch (fetch_word rfl) hd

/-- A word, placed for the next step, is what that step runs. -/
theorem Word.step_placeWord {f : OpFormat} {bytes : List Byte} {i : Instr} (word : Word f bytes i)
    (s : State) : ∃ t, step (placeWord f bytes s) = exec i t ∧ PreparedFrom s t := by
  obtain ⟨expiry, edge, loop, -, -⟩ := stepRunsTheSelectedOperation
  have hd := word.decode_eq
  cases word with
  | @table c i row =>
    rw [placeWord_table row]
    have aimed : assemble (aimHist c s).hist (sampleOf s.cfg.sampleOrder
        (linesOf s.cfg.sampleOrder (curOf c)).1 (linesOf s.cfg.sampleOrder (curOf c)).2) = c := by
      rw [sampleOf_linesOf]
      exact assemble_of_match _ c (curOf_assemble _ _)
    exact ⟨_, edge _ _ _ s.script c i rfl aimed row, rfl⟩
  | phase row =>
    rw [placeWord_phase row]
    exact ⟨_, loop _ _ _ s.script _ rfl row, rfl⟩
  | strobe => exact ⟨s, expiry _ s.script rfl, rfl⟩
  | stepUp | stepDown | packet | shiftByte => exact ⟨s, step_placeWord_bare hd (by decide) s, rfl⟩

/-- Settles O7: a table word that decodes is a word of its operation. -/
theorem placedTableWordIsRunNext : Obligations.PlacedTableWordIsRunNext :=
  fun s _ _ _ h => (word_of_decode (decode_of_decodeTableWord h)).step_placeWord s

/-! #### The mirrored core -/

/-- An edge runs the handler on the code that the history and the sample make (R64, R93). -/
theorem step_edge {s : State} {a b : Bool} {rest : List Entry} (h : s.script = .env (.qedge a b) :: rest) :
    step s = .next (quadrature (assemble s.hist (sampleOf s.cfg.sampleOrder a b))
      { s with script := rest, encA := a, encB := b }) := by
  obtain ⟨-, edge, -⟩ := stepRunsTheSelectedOperation
  obtain ⟨i, row⟩ := exists_qdRow (assemble s.hist (sampleOf s.cfg.sampleOrder a b))
  rw [edge s a b rest _ i h rfl row, exec_qd row]

/-- The handler commutes with exchanging the lines and negating the table (R62, R95). -/
theorem quadrature_mirror (c : Code) (s : State) :
    quadrature (mirrorCode c) (mirror s) = mirror (quadrature c s) := by
  simp only [quadrature_eq, mirror, delta_mirror, curOf_mirror, assemble_mirror, hysteresis_mirror]

/-- Settles O9: the mirrored core assembles the mirrored code, and the handler keeps the mirror. -/
theorem exchangedLinesNegateTheTable : Obligations.ExchangedLinesNegateTheTable := by
  intro s t a b rest hs hstep
  cases (step_edge hs).symm.trans hstep
  have mirrored : assemble (mirror s).hist (sampleOf (mirror s).cfg.sampleOrder a b) =
      mirrorCode (assemble s.hist (sampleOf s.cfg.sampleOrder a b)) := by
    simp only [mirror, sampleOf_other, assemble_mirror]
  rw [step_edge (s := mirror s) hs, mirrored, ← quadrature_mirror]
  rfl

end Sys2Proof.Machine

/-! ### The tick source: clock cycles, the expiry, and a tick that finds the flag set -/

namespace Sys2Proof.Machine

open Sys2Proof

/-- Inside a period a clock cycle selects no operation (R82). -/
theorem selected_clock_of_lt {s : State} (short : s.tmr < s.cfg.tickPeriod) : selected .clock s = none :=
  if_neg (Nat.not_le_of_lt short)

/-- The cycle that completes a period selects the expiry's strobe (R70, R82). -/
theorem selected_clock_of_le {s : State} (full : s.cfg.tickPeriod ≤ s.tmr) :
    selected .clock s = some (.strobe, [1]) :=
  if_pos full

/-- Settles O6: the cycle is counted before the period is tested, so the count reached decides whether the
step fetches nothing or the word of `TICK`. -/
theorem clockCyclesEndInAnExpiry : Obligations.ClockCyclesEndInAnExpiry := by
  intro s rest hs
  have hf := fetch_env hs
  refine ⟨fun short => ?short, fun full => ?full⟩
  case short =>
    rw [selected_clock_of_lt (s := present .clock { s with script := rest }) short] at hf
    exact step_of_fetch_none hf
  case full =>
    rw [selected_clock_of_le (s := present .clock { s with script := rest }) full] at hf
    exact step_of_fetch hf Word.strobe.decode_eq

/-- Settles O22: the reload is the same from every state. -/
theorem tickSetsTheFlagAndNothingElse : Obligations.TickSetsTheFlagAndNothingElse :=
  ⟨0, exec_tick⟩

/-- Settles O23: setting a flag that is set leaves only the reload of `TICK`'s two writes. -/
theorem secondTickIsDropped : Obligations.SecondTickIsDropped := by
  intro s due
  exact ⟨0, by rw [exec_tick, ← due]⟩

end Sys2Proof.Machine

/-! ### The quadrature decoder: the table, one handler invocation, and sequences of edges -/

namespace Sys2Proof.Machine

open Sys2Proof

/-! #### The delta table -/

/-- What a table counts on the ring `00 -> 10 -> 11 -> 01 -> 00` (R95). -/
def ringUnit : QTable → Int
  | .plusT => 1
  | .minusT => -1

theorem ringUnit_cases (t : QTable) : ringUnit t = 1 ∨ ringUnit t = -1 := by
  cases t <;> decide

theorem delta_ringT (t : QTable) {c : Code} (h : c ∈ ringT) : delta t c = ringUnit t := by
  cases t <;> revert c <;> decide

theorem delta_ringR (t : QTable) {c : Code} (h : c ∈ ringR) : delta t c = -ringUnit t := by
  cases t <;> revert c <;> decide

/-- Every code is a no-op, invalid, or on one of the two rings (R94). -/
theorem code_cases (c : Code) :
    (isNoop c = true ∨ isInvalid c = true) ∨ c ∈ ringT ∨ c ∈ ringR := by
  revert c
  decide

/-- The source's constraints on a table with the value `e` on the first ring (R94, R95). -/
def FitsSource (tab : Code → Int) (e : Int) : Prop :=
  (∀ c, isNoop c = true ∨ isInvalid c = true → tab c = 0) ∧
    (∀ c ∈ ringT, tab c = e) ∧ ∀ c ∈ ringR, tab c = -e

/-- The constraints leave no entry free once the value on the first ring is chosen. -/
theorem fitsSource_ringUnit_iff (tab : Code → Int) (t : QTable) :
    FitsSource tab (ringUnit t) ↔ ∀ c, tab c = delta t c := by
  constructor
  · rintro ⟨zero, onT, onR⟩ c
    obtain idle | ring | ring := code_cases c
    · rw [zero c idle, idle.elim (delta_noop t c) (delta_invalid t c)]
    · rw [onT c ring, delta_ringT t ring]
    · rw [onR c ring, delta_ringR t ring]
  · intro h
    refine ⟨fun c idle => ?_, fun c ring => ?_, fun c ring => ?_⟩
    · rw [h, idle.elim (delta_noop t c) (delta_invalid t c)]
    · rw [h, delta_ringT t ring]
    · rw [h, delta_ringR t ring]

/-- Settles O8: the common unit is the ring value of `T` or of `-T`, and it fixes every entry. -/
theorem onlyTAndMinusTFitTheSource : Obligations.OnlyTAndMinusTFitTheSource := by
  intro tab
  rw [← fitsSource_ringUnit_iff tab .plusT, ← fitsSource_ringUnit_iff tab .minusT]
  constructor
  · rintro ⟨zero, e, rfl | rfl, onT, onR⟩
    · exact .inl ⟨zero, onT, onR⟩
    · exact .inr ⟨zero, onT, onR⟩
  · rintro (⟨zero, onT, onR⟩ | ⟨zero, onT, onR⟩)
    · exact ⟨zero, 1, .inl rfl, onT, onR⟩
    · exact ⟨zero, -1, .inr rfl, onT, onR⟩

/-! #### One handler invocation, by the test that selects its outcome -/

theorem louder_eq (c : Config) (a : Byte) : louder c a = if a = c.attMin then a else a - 1 :=
  ite_not ..

theorem quieter_eq (c : Config) (a : Byte) : quieter c a = if a = c.attMax then a else a + 1 :=
  ite_not ..

/-- Between the thresholds an invocation shifts the history and counts (R90). -/
theorem quadrature_of_band {c : Code} {s : State}
    (lo : -(s.cfg.accStep : Int) < s.acc + delta s.cfg.qtab c)
    (hi : s.acc + delta s.cfg.qtab c < s.cfg.accStep) :
    quadrature c s = { s with
      hist := assemble s.hist (curOf c), acc := s.acc + delta s.cfg.qtab c } := by
  rw [quadrature_eq, hysteresis_band _ _ _ lo hi]

/-- Above the threshold an invocation shifts the history and makes the forward detent (R112). -/
theorem quadrature_of_above {c : Code} {s : State} (pos : 0 < s.cfg.accStep)
    (above : s.acc + delta s.cfg.qtab c > (s.cfg.accStep : Int) - 1) :
    quadrature c s = { s with
      hist := assemble s.hist (curOf c), acc := 0, att := louder s.cfg s.att } := by
  rw [quadrature_eq, hysteresis_up _ _ _ pos above]

/-- Below the lower threshold an invocation shifts the history and makes the reverse detent (R113). -/
theorem quadrature_of_below {c : Code} {s : State} (pos : 0 < s.cfg.accStep)
    (below : s.acc + delta s.cfg.qtab c < -((s.cfg.accStep : Int) - 1)) :
    quadrature c s = { s with
      hist := assemble s.hist (curOf c), acc := 0, att := quieter s.cfg s.att } := by
  rw [quadrature_eq, hysteresis_down _ _ _ pos below]

/-- A row whose delta is 0 only shifts the history, to the code itself where its previous sample is held. -/
theorem exec_of_zero_delta {c : Code} {i : Instr} (row : (c, i) ∈ qdRows) {s : State}
    (zero : delta s.cfg.qtab c = 0) (lo : -(s.cfg.accStep : Int) < s.acc)
    (hi : s.acc < s.cfg.accStep) :
    exec i s = .next { s with hist := assemble s.hist (curOf c) } ∧
      (curOf s.hist = prevOf c → exec i s = .next { s with hist := c }) := by
  have same : s.acc + delta s.cfg.qtab c = s.acc := by rw [zero, add_zero]
  have shifted : exec i s = .next { s with hist := assemble s.hist (curOf c) } := by
    rw [exec_qd row, quadrature_of_band (same.symm ▸ lo) (same.symm ▸ hi), same]
  exact ⟨shifted, fun held => by rw [shifted, assemble_of_match _ _ held]⟩

/-- Settles O10: the four rows are no-op rows of the table. -/
theorem noopCodesOnlyShiftTheHistory : Obligations.NoopCodesOnlyShiftTheHistory := by
  intro p hp s
  obtain ⟨row, noop⟩ : p ∈ qdRows ∧ isNoop p.1 = true := by revert p; decide
  exact exec_of_zero_delta row (delta_noop _ _ noop)

/-- Settles O11: the four rows are invalid rows of the table. -/
theorem invalidCodesOnlyShiftTheHistory : Obligations.InvalidCodesOnlyShiftTheHistory := by
  intro p hp s
  obtain ⟨row, invalid⟩ : p ∈ qdRows ∧ isInvalid p.1 = true := by revert p; decide
  exact exec_of_zero_delta row (delta_invalid _ _ invalid)

/-- Settles O12: a delta of +1 exceeds the threshold from `ACC_STEP - 1` and from nowhere below. -/
theorem forwardCodesCountUp : Obligations.ForwardCodesCountUp := by
  intro p hp
  obtain ⟨row, up⟩ : p.2 ∈ qdRows ∧ delta p.1 p.2.1 = 1 := by revert p; decide
  intro s table lo hi _
  rw [← table] at up
  rw [exec_qd (c := p.2.1) row]
  split
  next last => rw [quadrature_of_above (by omega) (by omega), louder_eq]
  next notLast => rw [quadrature_of_band (by omega) (by omega), up]

/-- Settles O13: a delta of -1 falls below the threshold from `-(ACC_STEP - 1)` and from nowhere above. -/
theorem reverseCodesCountDown : Obligations.ReverseCodesCountDown := by
  intro p hp
  obtain ⟨row, down⟩ : p.2 ∈ qdRows ∧ delta p.1 p.2.1 = -1 := by revert p; decide
  intro s table lo hi _
  rw [← table] at down
  rw [exec_qd (c := p.2.1) row]
  split
  next last => rw [quadrature_of_below (by omega) (by omega), quieter_eq]
  next notLast => rw [quadrature_of_band (by omega) (by omega), down, Int.sub_eq_add_neg]

/-! #### The two step outcomes by themselves (log 19) -/

theorem exec_qstepUp_of_above {c : Code} {s : State}
    (above : s.acc + delta s.cfg.qtab c > (s.cfg.accStep : Int) - 1) :
    exec (.qstepUp c) s = .next { s with acc := 0, att := louder s.cfg s.att } :=
  congrArg Host.Outcome.next ((detentUp_eq c s).trans (if_pos above))

theorem exec_qstepDown_of_below {c : Code} {s : State}
    (below : s.acc + delta s.cfg.qtab c < -((s.cfg.accStep : Int) - 1)) :
    exec (.qstepDown c) s = .next { s with acc := 0, att := quieter s.cfg s.att } :=
  congrArg Host.Outcome.next ((detentDown_eq c s).trans (if_pos below))

/-- Settles O14: the selected forward detent, with the clamp written out. -/
theorem forwardDetentResetsAndStepsDown : Obligations.ForwardDetentResetsAndStepsDown := by
  intro c s above _
  rw [exec_qstepUp_of_above above, louder_eq]

/-- Settles O15: the selected reverse detent, with the clamp written out. -/
theorem reverseDetentResetsAndStepsUp : Obligations.ReverseDetentResetsAndStepsUp := by
  intro c s below _
  rw [exec_qstepDown_of_below below, quieter_eq]

/-- Settles O16: the condition of each outcome fails. -/
theorem unselectedDetentDoesNothing : Obligations.UnselectedDetentDoesNothing := fun c s =>
  ⟨fun notAbove => congrArg Host.Outcome.next ((detentUp_eq c s).trans (if_neg notAbove.not_gt)),
    fun notBelow => congrArg Host.Outcome.next ((detentDown_eq c s).trans (if_neg notBelow.not_gt))⟩

/-- Settles O17: the handler and the outcome that its test selects write the same after the shift, and a
positive `ACC_STEP` keeps the two tests apart. -/
theorem handlerIsShiftThenAtMostOneDetent : Obligations.HandlerIsShiftThenAtMostOneDetent := by
  intro c i row s pos a u
  obtain ⟨idleUp, idleDown⟩ := unselectedDetentDoesNothing c u
  refine ⟨fun above => ⟨?_, idleDown ?_⟩, fun below => ⟨?_, idleUp ?_⟩, fun lo hi => ?_⟩
  · rw [exec_qd row, quadrature_of_above pos above, exec_qstepUp_of_above (s := u) above]
  · change -((s.cfg.accStep : Int) - 1) ≤ a
    omega
  · rw [exec_qd row, quadrature_of_below pos below, exec_qstepDown_of_below (s := u) below]
  · change a ≤ (s.cfg.accStep : Int) - 1
    omega
  · rw [exec_qd row, quadrature_of_band (by omega) (by omega)]

/-- Settles O18: the equations of the handler and of the two outcomes name the registers written. -/
theorem handlerWritesOnlyItsThreeRegisters : Obligations.HandlerWritesOnlyItsThreeRegisters := by
  rintro c i (row | rfl | rfl) s t h
  · cases (exec_qd row s).symm.trans h
    rfl
  · obtain rfl : detentUp c s = t := Host.Outcome.next.inj h
    rw [detentUp_eq]
    split <;> rfl
  · obtain rfl : detentDown c s = t := Host.Outcome.next.inj h
    rw [detentDown_eq]
    split <;> rfl

/-! #### The ranges and the size of a step -/

/-- The level moves by one at most, and only when the accumulator is cleared. -/
theorem hysteresis_step (c : Config) (acc : Int) (att : Byte) (pos : 0 < c.accStep)
    (lo : c.attMin ≤ att) (hi : att ≤ c.attMax) :
    ((hysteresis c acc att).2 = att ∨ (hysteresis c acc att).2.toNat + 1 = att.toNat ∨
      (hysteresis c acc att).2.toNat = att.toNat + 1) ∧
    ((hysteresis c acc att).2 ≠ att → (hysteresis c acc att).1 = 0) := by
  rcases lt_or_ge ((c.accStep : Int) - 1) acc with up | notUp
  · rw [hysteresis_up c acc att pos up]
    have level := louder_toNat c att lo
    exact ⟨by bv_omega, fun _ => rfl⟩
  rcases lt_or_ge acc (-((c.accStep : Int) - 1)) with down | notDown
  · rw [hysteresis_down c acc att pos down]
    have level := quieter_toNat c att hi
    exact ⟨by bv_omega, fun _ => rfl⟩
  · rw [hysteresis_band c acc att (by omega) (by omega)]
    exact ⟨.inl rfl, fun moved => absurd rfl moved⟩

/-- Settles O19: the new accumulator and level are those of the two tests. -/
theorem handlerKeepsRangesAndStepsByOne : Obligations.HandlerKeepsRangesAndStepsByOne := by
  intro c i row s t attLow attHigh accLow accHigh h
  cases (exec_qd row s).symm.trans h
  have pos : 0 < s.cfg.accStep := by omega
  obtain ⟨accLow', accHigh', attLow', attHigh'⟩ :=
    hysteresis_range s.cfg (s.acc + delta s.cfg.qtab c) s.att pos attLow attHigh
  exact ⟨attLow', attHigh', accLow', accHigh', hysteresis_step _ _ _ pos attLow attHigh⟩

/-! #### Sequences of edges -/

@[simp] theorem deltaSum_nil (t : QTable) : deltaSum t [] = 0 := rfl

@[simp] theorem deltaSum_cons (t : QTable) (c : Code) (cs : List Code) :
    deltaSum t (c :: cs) = delta t c + deltaSum t cs := rfl

@[simp] theorem length_lookups (o : SampleOrder) (h : Code) (l : List (Bool × Bool)) :
    (lookups o h l).length = l.length := by
  induction l generalizing h with
  | nil => rfl
  | cons p l ih => simp [lookups, ih]

theorem runN_succ {k : Nat} {s u : State} (h : step s = .next u) : runN (k + 1) s = runN k u := by
  simp only [runN, h]

/-- Every proper beginning of the lookups, counted from the accumulator `acc`, lies between the thresholds
`-n` and `n` (R117). -/
def StaysInBand (t : QTable) (n acc : Int) (cs : List Code) : Prop :=
  ∀ k, k < cs.length → -n < acc + deltaSum t (cs.take k) ∧ acc + deltaSum t (cs.take k) < n

theorem StaysInBand.tail {t : QTable} {n acc : Int} {c : Code} {cs : List Code}
    (h : StaysInBand t n acc (c :: cs)) : StaysInBand t n (acc + delta t c) cs := by
  intro k hk
  simpa [add_assoc] using h (k + 1) (by simpa using hk)

/-- A sequence that stays in the band until its last edge counts up to the threshold at most, since an
edge counts one at most (R95). -/
theorem StaysInBand.total {t : QTable} {n : Int} {cs : List Code} (pos : 0 < n)
    (h : StaysInBand t n 0 cs) : -n ≤ deltaSum t cs ∧ deltaSum t cs ≤ n := by
  obtain rfl | ⟨ds, c, rfl⟩ := List.eq_nil_or_concat' cs
  · exact ⟨by simpa using pos.le, by simpa using pos.le⟩
  · have before := h ds.length (by simp)
    have sum : deltaSum t (ds ++ [c]) = deltaSum t ds + delta t c := by simp [deltaSum]
    have unit := delta_cases t c
    simp only [List.take_left', zero_add] at before
    omega

/-- An edge whose delta leaves the sum in the band is looked up, shifted in and counted. -/
theorem step_edge_of_band {s : State} {a b : Bool} {rest : List Entry} {c : Code}
    (script : s.script = .env (.qedge a b) :: rest)
    (looked : assemble s.hist (sampleOf s.cfg.sampleOrder a b) = c)
    (lo : -(s.cfg.accStep : Int) < s.acc + delta s.cfg.qtab c)
    (hi : s.acc + delta s.cfg.qtab c < s.cfg.accStep) :
    step s = .next { s with
      script := rest, encA := a, encB := b, hist := c, acc := s.acc + delta s.cfg.qtab c } := by
  subst looked
  rw [step_edge script,
    quadrature_of_band (s := { s with script := rest, encA := a, encB := b }) lo hi, curOf_assemble]

/-- `t` is `s` with the moves `rest` to come and with `x` in the accumulator and the level, after edges that
have moved the lines and the history. -/
def AfterEdges (rest : List Entry) (x : Int × Byte) (s t : State) : Prop :=
  t = { s with
    script := rest, hist := t.hist, encA := t.encA, encB := t.encB, acc := x.1, att := x.2 }

/-- Edges that stay in the band until the last one act like one handler invocation that adds their whole
sum: all but the last only count, and the last finds the sum (R117). -/
theorem runN_edges {s : State} {l : List (Bool × Bool)} {rest : List Entry}
    (script : s.script = edges l ++ rest) (lo : -(s.cfg.accStep : Int) < s.acc)
    (hi : s.acc < s.cfg.accStep)
    (band : StaysInBand s.cfg.qtab s.cfg.accStep s.acc (lookups s.cfg.sampleOrder s.hist l)) :
    ∃ t, runN l.length s = .next t ∧ AfterEdges rest (hysteresis s.cfg
      (s.acc + deltaSum s.cfg.qtab (lookups s.cfg.sampleOrder s.hist l)) s.att) s t := by
  induction l generalizing s with
  | nil =>
    obtain rfl : s.script = rest := script
    refine ⟨s, rfl, ?_⟩
    rw [lookups, deltaSum_nil, add_zero, hysteresis_band _ _ _ lo hi]
    rfl
  | cons p l ih =>
    rw [lookups] at band ⊢
    generalize looked : assemble s.hist (sampleOf s.cfg.sampleOrder p.1 p.2) = c at band ⊢
    rw [List.length_cons, deltaSum_cons, ← add_assoc]
    by_cases counts : -(s.cfg.accStep : Int) < s.acc + delta s.cfg.qtab c ∧
        s.acc + delta s.cfg.qtab c < s.cfg.accStep
    case pos =>
      rw [runN_succ (step_edge_of_band script looked counts.1 counts.2)]
      exact ih rfl counts.1 counts.2 band.tail
    case neg =>
      cases l with
      | nil =>
        rw [runN_succ (step_edge script), looked, lookups, deltaSum_nil, add_zero]
        exact ⟨_, rfl, rfl⟩
      | cons q l => exact absurd (by simpa [lookups] using band 1 (by simp [lookups])) counts

/-- The two tests on a sum that reaches a threshold at most. -/
theorem hysteresis_of_le (c : Config) {acc : Int} (att : Byte) (pos : 0 < c.accStep)
    (lo : -(c.accStep : Int) ≤ acc) (hi : acc ≤ c.accStep) :
    hysteresis c acc att =
      (if acc = c.accStep ∨ acc = -c.accStep then 0 else acc,
        if acc = c.accStep then louder c att
          else if acc = -c.accStep then quieter c att else att) := by
  by_cases up : acc = c.accStep
  · rw [hysteresis_up c acc att pos (by omega), if_pos (.inl up), if_pos up]
  by_cases down : acc = -c.accStep
  · rw [hysteresis_down c acc att pos (by omega), if_pos (.inr down), if_neg up, if_pos down]
  · rw [hysteresis_band c acc att (by omega) (by omega), if_neg (by tauto), if_neg up, if_neg down]

/-- Settles O20: the edges act like one invocation that adds their sum, which is at most `ACC_STEP` either
way. -/
theorem edgeSumsMakeExactlyOneStep : Obligations.EdgeSumsMakeExactlyOneStep := by
  intro s l rest script cleared pos _ _ cs n total proper
  have band : StaysInBand s.cfg.qtab n 0 cs := by
    intro k hk
    rw [zero_add]
    exact proper k (by simpa [cs] using hk)
  obtain ⟨lo, hi⟩ := band.total (by omega)
  obtain ⟨t, run, ht⟩ := runN_edges script (by omega) (by omega) (cleared ▸ band)
  rw [cleared, zero_add, hysteresis_of_le s.cfg s.att pos lo hi] at ht
  exact ⟨t, run, ht⟩

theorem deltaSum_of_constant {t : QTable} {cs : List Code} {e : Int} (h : ∀ c ∈ cs, delta t c = e) :
    deltaSum t cs = cs.length * e := by
  rw [deltaSum, List.eq_replicate_of_mem (List.forall_mem_map.mpr h)]
  simp

/-- As many edges as `ACC_STEP` that each count the same unit are one detent in that unit's direction. -/
theorem detent_of_unit_edges {s : State} {l : List (Bool × Bool)} {rest : List Entry} {e : Int}
    (script : s.script = edges l ++ rest) (cleared : s.acc = 0) (pos : 0 < s.cfg.accStep)
    (length : l.length = s.cfg.accStep) (attLow : s.cfg.attMin ≤ s.att) (attHigh : s.att ≤ s.cfg.attMax)
    (unit : e = 1 ∨ e = -1)
    (counts : ∀ c ∈ lookups s.cfg.sampleOrder s.hist l, delta s.cfg.qtab c = e) :
    ∃ t, runN l.length s = .next t ∧ t.acc = 0 ∧
      t.att = if e = 1 then louder s.cfg s.att else quieter s.cfg s.att := by
  have total := deltaSum_of_constant counts
  rw [length_lookups, length] at total
  obtain ⟨t, run, ht⟩ := edgeSumsMakeExactlyOneStep s l rest script cleared pos attLow attHigh
    fun k hk => by
      rw [deltaSum_of_constant fun c hc => counts c (List.mem_of_mem_take hc), List.length_take,
        length_lookups, min_eq_left hk.le]
      rcases unit with rfl | rfl <;> omega
  refine ⟨t, run, ?_⟩
  rw [ht, total]
  obtain rfl | rfl := unit
  · simp
  · have apart : -(s.cfg.accStep : Int) ≠ s.cfg.accStep := by omega
    simp [apart]

/-- Settles O21: each ring counts one unit, with the signs of the table in use. -/
theorem fourEdgesOfOneRingAreOneDetent : Obligations.FourEdgesOfOneRingAreOneDetent := by
  intro s l rest script cleared pos length attLow attHigh
  have unit := ringUnit_cases s.cfg.qtab
  refine ⟨fun onT => ?_, fun onR => ?_⟩
  · have detent := detent_of_unit_edges script cleared pos length attLow attHigh unit
      fun c hc => delta_ringT _ (onT c hc)
    cases table : s.cfg.qtab <;> simpa [table, ringUnit] using detent
  · have detent := detent_of_unit_edges script cleared pos length attLow attHigh
      (e := -ringUnit s.cfg.qtab) (by omega) fun c hc => delta_ringR _ (onR c hc)
    cases table : s.cfg.qtab <;> simpa [table, ringUnit] using detent

end Sys2Proof.Machine

/-! ### ScanLoop: its phase actions, the loop of its phases, and handlers between them -/

namespace Sys2Proof.Machine

open Sys2Proof

/-! #### The poll, the scan and the divider -/

/-- A poll that finds the flag clear stays in `WAIT` (R130). -/
theorem execSlWait_clear {s : State} (clear : s.scanDue = false) :
    exec .slWait s = .next { s with phase := .wait } := by
  have unwritten : (takeScanDue s).2 = s := by rw [takeScanDue, ← clear]
  exact congrArg₂ (fun due t => Host.Outcome.next (setPhase (afterWait due) t)) clear unwritten

/-- Only an expiry and a poll touch the flag (R49). -/
theorem exec_keeps_scanDue {i : Instr} {s t : State} (h : exec i s = .next t) (notTick : i ≠ .tick)
    (notWait : i ≠ .slWait) : t.scanDue = s.scanDue := by
  obtain ⟨-, -, -, raised, cleared, -⟩ := eachRegisterHasItsOwner i s t h
  cases before : s.scanDue with
  | false => exact Bool.eq_false_iff.mpr fun after => notTick (raised before after)
  | true => exact Bool.eq_true_of_not_eq_false fun after => notWait (cleared before after)

/-- Settles O24: a poll by the flag it finds; the flag's other writer is the expiry. -/
theorem waitPollsAndClearsTheFlag : Obligations.WaitPollsAndClearsTheFlag := by
  intro s
  refine ⟨execSlWait_due, fun clear waiting => ?again, execSlWait_clear, fun t ht => ?tick,
    fun j hj t ht => ?other⟩
  case again => rw [execSlWait_clear clear, ← waiting]
  case tick =>
    cases (exec_tick s).symm.trans ht
    rfl
  case other =>
    obtain ⟨notTick, notWait⟩ : j ≠ .tick ∧ j ≠ .slWait := by clear ht; revert j; decide
    exact exec_keeps_scanDue ht notTick notWait

/-- Settles O25: the four slots make up the whole word, so the old one is gone. -/
theorem scanCallsAllCollaboratorsInOrder : Obligations.ScanCallsAllCollaboratorsInOrder := by
  intro s
  change Host.Outcome.next (setPhase .div (scanAll s)) = _
  rw [scanAll_eq]
  rfl

/-- The group rule, written out in the bits of the word (R13). -/
theorem legalSw_iff_bits (w : Byte) : legalSw w = true ↔
    (w.getLsbD 7).toNat + (w.getLsbD 6).toNat + (w.getLsbD 5).toNat ≤ 1 ∧
      (w.getLsbD 4).toNat + (w.getLsbD 3).toNat + (w.getLsbD 2).toNat ≤ 1 := by
  simp only [legalSw, atMostOne, BitVec.getLsbD_extractLsb', Bool.and_eq_true, decide_eq_true_eq,
    Nat.reduceLT, decide_true, Bool.true_and, Nat.reduceAdd]
  omega

/-- What the environment can show is exactly what the group rule allows (R134, D18). -/
theorem exists_scanWord_iff (w : Byte) : (∃ x, scanWord x = w) ↔ legalSw w = true :=
  ⟨fun ⟨x, shown⟩ => shown ▸ scanWord_legal x, fun legal => ⟨_, scanWord_pickOf w legal⟩⟩

/-- Settles O54: a scan leaves the word the environment shows, and a scanner leaves the bits outside its
mask. -/
theorem scannedWordsAreExactlyTheLegalOnes : Obligations.ScannedWordsAreExactlyTheLegalOnes := by
  obtain ⟨slotBits, -⟩ := scannersWriteOnlyTheirOwnSlot
  refine ⟨fun s w => ?words, fun slot s i hi outside => ?frame⟩
  case words =>
    rw [← legalSw_iff_bits, ← exists_scanWord_iff]
    refine exists_congr fun x => ?_
    rw [scanCallsAllCollaboratorsInOrder]
    simp only [Host.Outcome.next.injEq, exists_eq_left']
  case frame => rw [slotBits slot s i hi, outside, if_neg Bool.false_ne_true]

theorem iterate_divNext {n d : Nat} (h : d < n) (k : Nat) : (divNext n)^[k] d = (d + k) % n := by
  induction k with
  | zero => exact (Nat.mod_eq_of_lt h).symm
  | succ k ih => rw [Function.iterate_succ_apply', ih, divNext, Nat.mod_add_mod, add_assoc]

/-- Settles O28: the counter after `k` increments is the residue of `d + k`, and below `2 * DIV_N` only
`DIV_N` itself has the residue 0. -/
theorem dividerEvaluatesOneTickInSixteen : Obligations.DividerEvaluatesOneTickInSixteen := by
  refine ⟨fun _ => rfl, fun n d k hd hpos hk => ?_⟩
  rw [iterate_divNext hd, ← Nat.dvd_iff_mod_eq_zero, add_comm]
  constructor
  · intro multiple
    exact Nat.eq_of_dvd_of_lt_two_mul (by omega) multiple (by omega)
  · rintro rfl
    exact dvd_rfl

/-! #### The evaluation and the two output phases -/

/-- The candidate is the level, dimmed if it has changed while dim is on (R141). -/
theorem candidate_eq (c : Config) (w a snap : Byte) :
    candidate c w a snap = if a ≠ snap ∧ dimOn w = true then dimmed c a else a := by
  unfold candidate
  by_cases changed : a = snap
  · simp [changed]
  · simp [changed]

/-- The dispatch by the marks found set and the two changes (R144): a switch change marks the bus too, so
`SHIFT` is next only for a mark left from before. -/
theorem afterEval_marks (bus shift switch level : Bool) :
    afterEval ((bus || switch) || level) (shift || switch) =
      if bus = true ∨ switch = true ∨ level = true then .bus
      else if shift = true then .shift else .wait := by
  cases switch <;> simp [afterEval]

/-- Settles O29: the equation of an evaluation, with candidate and dispatch written out. -/
theorem evaluationMarksSnapshotsAndDispatches : Obligations.EvaluationMarksSnapshotsAndDispatches := by
  intro s
  refine (execSlEval_eq s).trans ?_
  simp only [candidate_eq, afterEval_marks, bne_iff_ne, decide_not]
  rfl

/-- One bus transaction with the candidate and the switch word; the mark is cleared (R162). -/
theorem exec_slBus (s : State) : exec .slBus s = .next { s with
    out := s.out ++ recordsOf .slBus s, busDue := false, phase := afterBus s.shiftDue } := rfl

/-- One shift-out of the switch word; the mark is cleared (R164). -/
theorem exec_slShift (s : State) : exec .slShift s = .next { s with
    out := s.out ++ recordsOf .slShift s, shiftDue := false, phase := .wait } := rfl

/-- An evaluation that finds only the switch word changed marks both updates, and its candidate is the
level as it stands, whatever the dim bit says (R142). -/
theorem execSlEval_of_switch_change {s : State} (changed : s.sw ≠ s.snapSw)
    (same : s.att = s.snapAtt) : exec .slEval s = .next { s with
      shiftDue := true, busDue := true, snapSw := s.sw, cand := s.att, phase := .bus } := by
  rw [evaluationMarksSnapshotsAndDispatches]
  simp [changed, ← same]

/-- An evaluation that finds nothing changed and nothing marked only refreshes the candidate (R145). -/
theorem execSlEval_of_no_change {s : State} (sameSw : s.sw = s.snapSw) (sameAtt : s.att = s.snapAtt)
    (busClear : s.busDue = false) (shiftClear : s.shiftDue = false) :
    exec .slEval s = .next { s with cand := s.att, phase := .wait } := by
  rw [evaluationMarksSnapshotsAndDispatches]
  simp [← sameSw, ← sameAtt, busClear, shiftClear]

/-- Settles O30: the three phases in turn, each from the state that the one before it leaves. -/
theorem switchChangeAloneSendsTheRawLevel : Obligations.SwitchChangeAloneSendsTheRawLevel := by
  intro s changed same
  exact ⟨_, _, _, execSlEval_of_switch_change changed same, rfl, exec_slBus _, rfl, exec_slShift _, rfl,
    rfl, rfl, List.append_assoc ..⟩

/-- Settles O31: the first evaluation leaves the values it read in the snapshot. -/
theorem changeIsReportedAtMostOnce : Obligations.ChangeIsReportedAtMostOnce := by
  intro s t u ht sameSw sameAtt snapSw snapAtt
  cases (evaluationMarksSnapshotsAndDispatches s).symm.trans ht
  exact execSlEval_of_no_change (sameSw.trans snapSw.symm) (sameAtt.trans snapAtt.symm)

/-- Settles O32: the decoder's registers and the timer have other owners, and so has the setting of the
flag. -/
theorem scanLoopNeverWritesTheDecoder : Obligations.ScanLoopNeverWritesTheDecoder := by
  intro i hi s t ht
  obtain ⟨hist, accAtt, tmr, raised, -⟩ := eachRegisterHasItsOwner i s t ht
  obtain ⟨notTick, notDecoder⟩ : i ≠ .tick ∧
      ∀ c, (c, i) ∉ qdRows ∧ i ≠ .qstepUp c ∧ i ≠ .qstepDown c := by
    clear * - hi
    revert i
    decide
  simp only [notTick, notDecoder, or_false, exists_const, imp_false, not_not, not_or]
    at hist accAtt tmr raised
  exact ⟨accAtt.2, hist, accAtt.1, tmr, fun after => Bool.eq_true_of_not_eq_false fun before =>
    raised before after⟩

/-! #### The steps of the two sides: handlers and clock cycles, and ScanLoop -/

/-- The state without what the handlers, the lines and the clock write, and without the moves to come. What
remains of it is ScanLoop's own (R27), and the parameters and inputs that no other move changes. -/
def loopView (s : State) : State :=
  { s with
    att := 0, hist := 0, acc := 0, scanDue := false, tmr := 0, encA := false, encB := false
    script := [] }

/-- What the proofs below read off an equal view; a packet is made of ScanLoop's registers alone. -/
theorem keeps_of_loopView_eq {s t : State} (h : loopView t = loopView s) :
    t.phase = s.phase ∧ t.snapAtt = s.snapAtt ∧ t.snapSw = s.snapSw ∧ t.out = s.out ∧
    recordsOf .slBus t = recordsOf .slBus s :=
  ⟨(congrArg State.phase h :), (congrArg State.snapAtt h :), (congrArg State.snapSw h :),
    (congrArg State.out h :), (congrArg (recordsOf .slBus) h :)⟩

/-- A move that is not ScanLoop's completes and leaves everything that ScanLoop owns (R182, R183). -/
theorem step_of_not_loop {s : State} {e : EnvEvent} {rest : List Entry}
    (script : s.script = .env e :: rest) (notLoop : isLoop e = false) :
    ∃ t, step s = .next t ∧ t.script = rest ∧ loopView t = loopView s := by
  obtain ⟨expiry, -⟩ := stepRunsTheSelectedOperation
  cases e with
  | tick => exact ⟨_, expiry s rest script, rfl, rfl⟩
  | clock =>
    obtain ⟨counted, expired⟩ := clockCyclesEndInAnExpiry s rest script
    rcases lt_or_ge (s.tmr + 1) s.cfg.tickPeriod with short | full
    · exact ⟨_, counted short, rfl, rfl⟩
    · exact ⟨_, expired full, rfl, rfl⟩
  | qedge a b => exact ⟨_, step_edge script, rfl, rfl⟩
  | loop x st => cases notLoop

/-- The action that ScanLoop performs in a phase (R69). -/
def phaseAction : Phase → Instr
  | .wait => .slWait
  | .scan => .slScan
  | .div => .slDiv
  | .eval => .slEval
  | .bus => .slBus
  | .shift => .slShift

theorem phaseAction_row (p : Phase) : (phaseCode p, phaseAction p) ∈ phaseRows := by
  cases p <;> decide

/-- A move of ScanLoop runs the action of the present phase (R26). -/
theorem step_loop {s : State} {x : Selection} {st : Nat} {rest : List Entry}
    (script : s.script = .env (.loop x st) :: rest) :
    step s = exec (phaseAction s.phase) { s with script := rest, pins := x, status := st } := by
  obtain ⟨-, -, loop, -⟩ := stepRunsTheSelectedOperation
  exact loop s x st rest _ script (phaseAction_row s.phase)

/-- Every placed move completes and uses up its own entry of the script. -/
theorem exists_step_of_move {s : State} {e : EnvEvent} {rest : List Entry}
    (script : s.script = .env e :: rest) : ∃ t, step s = .next t ∧ t.script = rest := by
  cases e with
  | loop x st =>
    obtain ⟨t, ht, -⟩ := exec_appends (phaseAction s.phase)
      { s with script := rest, pins := x, status := st }
    exact ⟨t, (step_loop script).trans ht, exec_keeps_script ht⟩
  | _ =>
    obtain ⟨t, ht, moved, -⟩ := step_of_not_loop script rfl
    exact ⟨t, ht, moved⟩

/-- Settles O33: the phase belongs to ScanLoop, and each of its actions writes its own successor. -/
theorem phasesFollowTheLoop : Obligations.PhasesFollowTheLoop := by
  intro s t e rest script ht
  refine ⟨fun notLoop => ?kept, fun ours => ?table⟩
  case kept =>
    obtain ⟨t', ht', -, view⟩ := step_of_not_loop script notLoop
    cases ht'.symm.trans ht
    exact (keeps_of_loopView_eq view).1
  case table =>
    cases e with
    | loop x st =>
      have action := (step_loop script).symm.trans ht
      cases phase : s.phase
      all_goals
        rw [phase] at action
        cases action
        rfl
    | _ => cases ours

/-! #### The loop returns to `WAIT` -/

/-- The moves of ScanLoop that bring a phase to `WAIT` at the latest (R132). -/
def movesToWait : Phase → Nat
  | .wait => 0
  | .scan => 5
  | .div => 4
  | .eval => 3
  | .bus => 2
  | .shift => 1

theorem movesToWait_le (p : Phase) : movesToWait p ≤ 5 := by
  cases p <;> decide

theorem movesToWait_eq_zero {p : Phase} : movesToWait p = 0 ↔ p = .wait := by
  cases p <;> decide

/-- Outside `WAIT` each move of ScanLoop comes nearer to it. -/
theorem movesToWait_lt_of_loop {s t : State} {e : EnvEvent} {rest : List Entry}
    (script : s.script = .env e :: rest) (loop : isLoop e = true) (ht : step s = .next t)
    (busy : s.phase ≠ .wait) : movesToWait t.phase < movesToWait s.phase := by
  have next := (phasesFollowTheLoop s t e rest script ht).2 loop
  cases phase : s.phase <;> simp only [phase] at next <;> rw [next]
  case wait => exact absurd phase busy
  case div => split <;> decide
  case eval =>
    split
    · decide
    · split <;> decide
  case bus => split <;> decide
  all_goals decide

/-- A run over moves with enough of ScanLoop's among them meets the phase `WAIT`. -/
theorem exists_wait_of_moves {s : State} {l : List EnvEvent} {rest : List Entry}
    (script : s.script = l.map .env ++ rest)
    (enough : movesToWait s.phase ≤ (l.filter isLoop).length) :
    ∃ k t, k ≤ l.length ∧ runN k s = .next t ∧ t.phase = .wait := by
  induction l generalizing s with
  | nil => exact ⟨0, s, le_rfl, rfl, movesToWait_eq_zero.mp (Nat.le_zero.mp enough)⟩
  | cons e l ih =>
    by_cases waiting : s.phase = .wait
    · exact ⟨0, s, Nat.zero_le _, rfl, waiting⟩
    obtain ⟨u, hu, moved⟩ := exists_step_of_move script
    have nearer : movesToWait u.phase ≤ (l.filter isLoop).length := by
      cases loop : isLoop e with
      | false =>
        rw [(phasesFollowTheLoop s u e _ script hu).1 loop]
        simpa [loop] using enough
      | true =>
        have closer := movesToWait_lt_of_loop script loop hu waiting
        simp only [List.filter_cons, loop, if_true, List.length_cons] at enough
        omega
    obtain ⟨k, t, bound, run, done⟩ := ih moved nearer
    exact ⟨k + 1, t, Nat.succ_le_succ bound, (runN_succ hu).trans run, done⟩

/-- Settles O34: no phase is further than five moves of ScanLoop from `WAIT`. -/
theorem loopReturnsToWait : Obligations.LoopReturnsToWait :=
  fun s _ _ script five => exists_wait_of_moves script ((movesToWait_le s.phase).trans five)

/-! #### The packet -/

/-- Moves that are not ScanLoop's leave everything that it owns, however many they are. -/
theorem runN_of_not_loop {s : State} {l : List EnvEvent} {rest : List Entry}
    (script : s.script = l.map .env ++ rest) (notLoop : ∀ e ∈ l, isLoop e = false) (k : Nat) :
    ∃ t, runN (l.length + k) s = runN k t ∧ t.script = rest ∧ loopView t = loopView s := by
  induction l generalizing s with
  | nil => exact ⟨s, by rw [List.length_nil, zero_add], script, rfl⟩
  | cons e l ih =>
    obtain ⟨first, others⟩ := List.forall_mem_cons.mp notLoop
    obtain ⟨u, hu, moved, kept⟩ := step_of_not_loop script first
    obtain ⟨t, run, moved', kept'⟩ := ih moved others
    refine ⟨t, ?_, moved', kept'.trans kept⟩
    rw [List.length_cons, Nat.add_right_comm, runN_succ hu, run]

/-- In the phase `BUS`, whatever comes before it, ScanLoop's next move sends the packet that the state holds
already, and leaves the snapshot (R139). -/
theorem runN_sends_packet {s : State} {l : List EnvEvent} {x : Selection} {st : Nat} {rest : List Entry}
    (script : s.script = l.map .env ++ .env (.loop x st) :: rest) (phase : s.phase = .bus)
    (notLoop : ∀ e ∈ l, isLoop e = false) :
    ∃ t, runN (l.length + 1) s = .next t ∧ t.out = s.out ++ recordsOf .slBus s ∧
      t.snapAtt = s.snapAtt ∧ t.snapSw = s.snapSw ∧ t.script = rest := by
  obtain ⟨u, run, moved, kept⟩ := runN_of_not_loop script notLoop 1
  obtain ⟨samePhase, snapAtt, snapSw, out, packet⟩ := keeps_of_loopView_eq kept
  have sent := step_loop moved
  rw [samePhase, phase] at sent
  exact ⟨_, run.trans (runN_succ (sent.trans (exec_slBus _))), congrArg₂ (· ++ ·) out packet, snapAtt,
    snapSw, rfl⟩

/-- Settles O39: the evaluation leaves the packet's two bytes and the snapshot in registers that only
ScanLoop writes. -/
theorem packetIsFixedByTheEvaluation : Obligations.PacketIsFixedByTheEvaluation := by
  intro s t l w st rest ht phase notLoop
  cases (evaluationMarksSnapshotsAndDispatches s).symm.trans ht
  exact runN_sends_packet rfl phase notLoop

end Sys2Proof.Machine

/-! ### Output transactions: whole runs, completion, and the two output phases -/

namespace Sys2Proof.Machine

open Sys2Proof

/-! #### Runs never stop and stay safe -/

/-- From a safe state the step answers a safe state with the same parameters. -/
theorem SafeState.exists_step {s : State} (h : SafeState s) :
    ∃ t, step s = .next t ∧ SafeState t ∧ t.cfg = s.cfg := by
  obtain ⟨t, ht, -⟩ := noMoveStopsTheCore s h.moves
  obtain ⟨cfg, -⟩ := parametersAreFixedAndTracesOnlyGrow s t ht
  exact ⟨t, ht, everyStepKeepsTheInvariant s t h ht, cfg⟩

/-- The step of a safe state, repeated. -/
theorem SafeState.exists_run {s : State} (h : SafeState s) (n : Nat) :
    ∃ t, runN n s = .next t ∧ SafeState t ∧ t.cfg = s.cfg := by
  induction n generalizing s with
  | zero => exact ⟨s, rfl, h, rfl⟩
  | succ n ih =>
    obtain ⟨u, hu, safe, cfg⟩ := h.exists_step
    obtain ⟨t, run, safe', cfg'⟩ := ih safe
    exact ⟨t, (runN_succ hu).trans run, safe', cfg'.trans cfg⟩

theorem isMove_of_mem_map_env {l : List EnvEvent} : ∀ e ∈ l.map Entry.env, Entry.isMove e = true :=
  List.forall_mem_map.mpr fun _ _ => rfl

/-- Moves placed at boot are the only clause of the invariant that speaks of the script. -/
theorem resetWith_script_safe {c : Config} (legal : Legal c) (l : List EnvEvent) :
    SafeState { State.resetWith c with script := l.map .env } :=
  { resetWith_safe legal with moves := isMove_of_mem_map_env }

/-- Settles O52, by induction on the length of the run; boot with placed moves is a safe state. -/
theorem runsFromBootNeverStopAndStaySafe : Obligations.RunsFromBootNeverStopAndStaySafe :=
  ⟨fun _ n h => h.exists_run n, fun _ l n legal => (resetWith_script_safe legal l).exists_run n⟩

/-! #### Completion and the output records -/

/-- Settles O44: that an operation completes is part of what it appends to the traces. -/
theorem everyOperationCompletes : Obligations.EveryOperationCompletes := by
  intro i s
  obtain ⟨t, ht, -⟩ := exec_appends i s
  exact ⟨t, ht⟩

/-- Settles O37: each of the two operations is the one update that emits its record. -/
theorem outputRecordsAreAppended : Obligations.OutputRecordsAreAppended :=
  ⟨fun _ _ _ => rfl, fun _ _ => rfl⟩

/-! #### The output phases are entered by their marks only -/

theorem afterEval_eq_bus_iff {bus shift : Bool} : afterEval bus shift = .bus ↔ bus = true := by
  cases bus <;> cases shift <;> decide

theorem afterEval_eq_shift_iff {bus shift : Bool} :
    afterEval bus shift = .shift ↔ bus = false ∧ shift = true := by
  cases bus <;> cases shift <;> decide

/-- An output phase is entered from `EVAL` or from `BUS`. Both dispatch by the marks they leave: `SL.BUS`
has cleared its own, so its successor is the one that R144 gives too. -/
theorem afterEval_eq_of_enters {i : Instr} {s t : State} {p : Phase} (h : exec i s = .next t)
    (output : p = .bus ∨ p = .shift) (outside : s.phase ≠ p) (entered : t.phase = p) :
    afterEval t.busDue t.shiftDue = p := by
  subst entered
  obtain ⟨-, -, -, -, -, -, -, -, -, -, phaseOwner, -⟩ := eachRegisterHasItsOwner i s t h
  obtain ⟨_, row⟩ := phaseOwner outside.symm
  obtain ⟨-, rfl⟩ | ⟨-, rfl⟩ | ⟨-, rfl⟩ | ⟨-, rfl⟩ | ⟨-, rfl⟩ | ⟨-, rfl⟩ := phaseRow_cases row
  · cases h
    exact absurd output (not_or.mpr (afterWait_ne _))
  · cases h
    exact absurd output (by simp)
  · cases h
    exact absurd output (not_or.mpr (afterDiv_ne _))
  · cases (execSlEval_eq s).symm.trans h
    rfl
  · cases (exec_slBus s).symm.trans h
    rfl
  · cases h
    exact absurd output (by simp)

/-- Settles O35: the equation of the phase, and its entry by the dispatch. -/
theorem busPhaseSendsOnePacket : Obligations.BusPhaseSendsOnePacket :=
  ⟨exec_slBus, fun _ _ _ h outside entered =>
    afterEval_eq_bus_iff.mp (afterEval_eq_of_enters h (.inl rfl) outside entered)⟩

/-- Settles O36: the equation of the phase, and its entry by the dispatch. -/
theorem shiftPhaseSendsTheSwitchWord : Obligations.ShiftPhaseSendsTheSwitchWord :=
  ⟨exec_slShift, fun _ _ _ h outside entered =>
    (afterEval_eq_shift_iff.mp (afterEval_eq_of_enters h (.inr rfl) outside entered)).2⟩

end Sys2Proof.Machine

/-! ### What an expiry and a change of the bus status commute with -/

namespace Sys2Proof.Machine

open Sys2Proof

/-- The handler writes `HIST`, `ACC` and `ATT`; an expiry writes the flag and the timer, and neither reads
what the other writes (R181). -/
theorem expiry_commutesWith_handler {c : Code} {i : Instr} (row : (c, i) ∈ qdRows) :
    CommutesWith (fun s => { s with scanDue := true, tmr := 0 }) i :=
  ⟨quadrature c, exec_qd row, fun _ => rfl⟩

/-- Settles O41: the expiry's update commutes with the handler of every code. -/
theorem expiryAndEdgeCommute : Obligations.ExpiryAndEdgeCommute :=
  fun _ _ row => (expiry_commutesWith_handler row).either_order exec_tick

/-- The same state, but for the answer of the bus transmitter (R161). -/
def withStatus (st : Nat) (s : State) : State := { s with status := st }

/-- An update that commutes with an operation carries the operation's answer along. -/
theorem CommutesWith.exec_next {f : State → State} {i : Instr} (comm : CommutesWith f i) {s t : State}
    (h : exec i s = .next t) : exec i (f s) = .next (f t) := by
  obtain ⟨g, hi, hfg⟩ := comm
  obtain rfl : t = g s := by simpa [h] using hi s
  rw [hi, hfg s]

/-- No operation reads or writes the status (R176). Only the two detents leave the state whole on one
branch, and the condition that selects the branch does not read the status either. -/
theorem withStatus_commutesWith (st : Nat) (i : Instr) : CommutesWith (withStatus st) i := by
  cases i with
  | qstepUp c => exact ⟨detentUp c, fun _ => rfl, fun _ => apply_ite (withStatus st) _ _ _⟩
  | qstepDown c => exact ⟨detentDown c, fun _ => rfl, fun _ => apply_ite (withStatus st) _ _ _⟩
  | slEval => exact ⟨_, execSlEval_eq, fun _ => rfl⟩
  | _ => exact ⟨_, fun _ => rfl, fun _ => rfl⟩

/-- Settles O38: a change of the status commutes with every operation. -/
theorem busStatusChangesNothing : Obligations.BusStatusChangesNothing :=
  fun i _ _ st h => (withStatus_commutesWith st i).exec_next h

end Sys2Proof.Machine


/-! ### The first evaluation after boot -/

namespace Sys2Proof.Machine

open Sys2Proof

/-- An evaluation that finds both marks clear sets each exactly for a difference between the snapshot and
the value read: the switch word's for either mark, the level's for the bus only (R138, R140). -/
theorem execSlEval_marks_iff_of_clear {s t : State} (ht : exec .slEval s = .next t)
    (busClear : s.busDue = false) (shiftClear : s.shiftDue = false) :
    (t.busDue = true ↔ s.snapSw ≠ s.sw ∨ s.snapAtt ≠ s.att) ∧
      (t.shiftDue = true ↔ s.snapSw ≠ s.sw) := by
  cases (evaluationMarksSnapshotsAndDispatches s).symm.trans ht
  simp [busClear, shiftClear, eq_comm (a := s.snapSw), eq_comm (a := s.snapAtt)]

/-- Settles O49: after boot both marks are clear (R201), and the values read are the power-on ones. -/
theorem powerOnStateIsReportedIfSnapshotDiffers :
    Obligations.PowerOnStateIsReportedIfSnapshotDiffers := by
  intro c d
  have eval := evaluationMarksSnapshotsAndDispatches
    { State.resetWith c with phase := .eval, div := d }
  obtain ⟨bus, shift⟩ := execSlEval_marks_iff_of_clear eval rfl rfl
  exact ⟨_, eval, bus, shift, rfl⟩

end Sys2Proof.Machine
